-- ==== Sys2Proof/Word.lean ====
section
/-!
DEFINITION. Words: the widths of the machine's values (R7, R10, R30) and the plainest arithmetic on them.
-/

namespace Sys2Proof

/-- One byte of memory (R7). -/
abbrev Byte := BitVec 8
/-- A 64-bit register or CSR value (R10). -/
abbrev Word := BitVec 64
/-- One element of a vector register (R114). -/
abbrev Elem := BitVec 32
/-- An instruction word (R30). -/
abbrev Code := BitVec 32

/-- `sext(x, n)` of R28: the low `n` bits of `x`, sign-extended to 64 bits. -/
def sext (x : Word) (n : Nat) : Word := (x.setWidth n).signExtend 64

/-- `zext(x, n)` of R28: the low `n` bits of `x`, zero-extended to 64 bits. -/
def zext (x : Word) (n : Nat) : Word := (x.setWidth n).setWidth 64

end Sys2Proof
end

