-- ==== Sys2Proof/Syntax.lean ====
section
/-!
DEFINITION. Syntax: one constructor of `Instr` per row of the opcode table. The 183 instruction words carry the
fields their format gives them (R33, R34, R41), less the bits the device ignores (R35); the 74 events of the device
carry what names the step (the core, the queue, the partition, the value written).
-/

namespace Sys2Proof

/-- The guard of a scalar word (R31): predicate number PG and negation PN. -/
structure Guard where
  g : BitVec 3
  n : BitVec 1
  deriving DecidableEq, Repr

/-- Format A, three registers. -/
structure OpDAB extends Guard where
  d : BitVec 5
  a : BitVec 5
  b : BitVec 5
  deriving DecidableEq, Repr

/-- Format A, one source and one destination register. -/
structure OpDA extends Guard where
  d : BitVec 5
  a : BitVec 5
  deriving DecidableEq, Repr

/-- Format A, two source registers. -/
structure OpAB extends Guard where
  a : BitVec 5
  b : BitVec 5
  deriving DecidableEq, Repr

/-- Format A, a predicate destination and two source registers. -/
structure OpPAB extends Guard where
  p : BitVec 3
  a : BitVec 5
  b : BitVec 5
  deriving DecidableEq, Repr

/-- Format A, one source register. -/
structure OpA extends Guard where
  a : BitVec 5
  deriving DecidableEq, Repr

/-- Format A, one destination register. -/
structure OpD extends Guard where
  d : BitVec 5
  deriving DecidableEq, Repr

/-- Format A, one destination predicate. -/
structure OpP extends Guard where
  p : BitVec 3
  deriving DecidableEq, Repr

/-- Format I with a signed immediate (R34, R52). -/
structure OpDAI extends Guard where
  d : BitVec 5
  a : BitVec 5
  i : BitVec 11
  deriving DecidableEq, Repr

/-- Format I, shift count IMM11[5:0] (R34). -/
structure OpDAS extends Guard where
  d : BitVec 5
  a : BitVec 5
  i : BitVec 6
  deriving DecidableEq, Repr

/-- Format U: `li` and `lsh`. -/
structure OpDI extends Guard where
  d : BitVec 5
  i : BitVec 16
  deriving DecidableEq, Repr

/-- `cmp`: combine mode, predicate, registers, condition (R55). -/
structure OpCmp extends Guard where
  m : BitVec 2
  p : BitVec 3
  a : BitVec 5
  b : BitVec 5
  c : BitVec 3
  deriving DecidableEq, Repr

/-- `cmpi`: format C (R56). -/
structure OpCmpi extends Guard where
  p : BitVec 3
  c : BitVec 3
  a : BitVec 5
  i : BitVec 10
  deriving DecidableEq, Repr

/-- Predicate logic with two sources (R57). -/
structure OpP3 extends Guard where
  d : BitVec 3
  a : BitVec 3
  b : BitVec 3
  deriving DecidableEq, Repr

/-- Predicate logic with one source (R57). -/
structure OpP2 extends Guard where
  d : BitVec 3
  a : BitVec 3
  deriving DecidableEq, Repr

/-- `sel` (R58). -/
structure OpSel extends Guard where
  d : BitVec 5
  a : BitVec 5
  b : BitVec 5
  p : BitVec 3
  deriving DecidableEq, Repr

/-- Format M: register (D or S), base, class, offset (R59). -/
structure OpM extends Guard where
  r : BitVec 5
  b : BitVec 5
  c : BitVec 4
  o : BitVec 7
  deriving DecidableEq, Repr

/-- Spill words (R63): register, the masked-off slot bits, the slot. -/
structure OpSpill extends Guard where
  r : BitVec 5
  w : BitVec 7
  s : BitVec 9
  deriving DecidableEq, Repr

/-- `fld` (R223): tap and the unused tap sub-field. -/
structure OpFld extends Guard where
  d : BitVec 5
  b : BitVec 5
  c : BitVec 4
  t : BitVec 3
  u : BitVec 4
  deriving DecidableEq, Repr

/-- `fld2` (R223): two taps and the unused bit between them. -/
structure OpFld2 extends Guard where
  d : BitVec 5
  b : BitVec 5
  c : BitVec 4
  t : BitVec 3
  u : BitVec 1
  s : BitVec 3
  deriving DecidableEq, Repr

/-- Atomics (R190): registers, scope code, class. -/
structure OpAmo extends Guard where
  d : BitVec 5
  a : BitVec 5
  b : BitVec 5
  s : BitVec 2
  c : BitVec 4
  deriving DecidableEq, Repr

/-- `fence` (R193): scope code and class mask. -/
structure OpFence extends Guard where
  s : BitVec 3
  m : BitVec 16
  deriving DecidableEq, Repr

/-- Barrier words (R179). -/
structure OpBar extends Guard where
  i : BitVec 7
  a : BitVec 5
  deriving DecidableEq, Repr

/-- `tok.wait` (R243). -/
structure OpTok extends Guard where
  i : BitVec 7
  deriving DecidableEq, Repr

/-- `tok.test` (R243). -/
structure OpTokP extends Guard where
  i : BitVec 7
  p : BitVec 3
  deriving DecidableEq, Repr

/-- `tok.snap` and `tok.waitv` (R243). -/
structure OpTokA extends Guard where
  i : BitVec 7
  a : BitVec 5
  deriving DecidableEq, Repr

/-- Format B (R64). -/
structure OpB extends Guard where
  o : BitVec 21
  deriving DecidableEq, Repr

/-- `loop` (R66). -/
structure OpLoop extends Guard where
  i : BitVec 2
  s : BitVec 3
  a : BitVec 5
  e : BitVec 11
  deriving DecidableEq, Repr

/-- `lexit` (R71). -/
structure OpL extends Guard where
  l : BitVec 2
  deriving DecidableEq, Repr

/-- Format E (R39): token slot and the two operand registers. -/
structure OpE extends Guard where
  t : BitVec 6
  a : BitVec 5
  b : BitVec 5
  deriving DecidableEq, Repr

/-- `csrr` (R73). -/
structure OpDC extends Guard where
  d : BitVec 5
  c : BitVec 11
  deriving DecidableEq, Repr

/-- `csrw` (R73). -/
structure OpAC extends Guard where
  a : BitVec 5
  c : BitVec 11
  deriving DecidableEq, Repr

/-- The vector word (R41). A field the opcode does not use is zero in a well-formed word (R35, R116). -/
structure OpV where
  d : BitVec 4
  a : BitVec 4
  b : BitVec 4
  p : BitVec 2
  s : BitVec 5
  t : BitVec 5
  deriving DecidableEq, Repr

/-- The 54 vector opcodes (R42). -/
inductive VOp
  | vadd | vsub | vmul | vfma | vfms | vmin | vmax | vabs | vneg
  | vadds | vmuls | vfmas | vrcp | vrsq | vexp2 | vlog2 | viadd | visub
  | vimul | vand | vor | vxor | vshl | vshr | vsar | vimin | vimax
  | viadds | vcmp | vcmps | vsel | vmov | vbcs | viota | kop | kpop
  | vget | vrotr | vrotc | vbcr | vbcc | vredr | vredc | vshuf | vcvt
  | vpack | vunpk | vfix | vflt | vld | vst | vldb | vstadd | vzero
  deriving DecidableEq, Repr

/-- The four engine queues of a core (R239). -/
inductive EngQ | me | ws | ce | bank
  deriving DecidableEq, Repr

/-- The engine commands of the ME, WS, CE and BANK groups (R38). -/
inductive EngOp
  | mload | mswap | mcfg | mgo | mstream | mdrain | mzero | mmode
  | wtab | wstream
  | cpy | cnest | cmc | cacc | cgat | csct | cstage
  | fbind | ftick | walk
  deriving DecidableEq, Repr

/-- The UNIT field of a trace record (R320). -/
inductive TrUnit | sq | vu | me | ce | ws | bank | sys | stack
  deriving DecidableEq, Repr

/-- Which side of a lease a command or message comes from (R347): the local host's command on this entry (for ACCEPT
with the lender's answer: 0 accepted, else the REASON of R346), or a message of the peer with its package and key. -/
inductive PeerSide
  | ours (reason : BitVec 8)
  | peers (pkg : BitVec 10) (deadline : Word) (sameKey : Bool)
  deriving DecidableEq, Repr

/-- A request that a peer makes through an export window or a lease (R343, R345, R348). -/
inductive PeerReq
  | read (n : Nat)
  | write (bytes : List Byte)
  | atomic (op : BitVec 4) (b x : Word)
  | vadd (fp : Bool) (v : Elem)
  | tap (t : BitVec 3)
  | arrival (n : Nat)
  | closure (k : Nat)
  deriving DecidableEq, Repr

/-- An address in a message of the host, the bytes that an access of a register has, and TIME that the message carries (R319, R337). -/
structure HostAddr where
  addr : Word
  size : Nat
  sent : Nat
  deriving DecidableEq, Repr

/-- What comes with a firmware image (R354): the key Qx ‖ Qy and the signature (r, t). -/
structure FirmwareSig where
  key : List Byte
  r : Nat
  t : Nat
  deriving DecidableEq, Repr

/-- Every row of the opcode table: 183 instruction words, then 74 events of the device. -/
inductive Instr
  /-- R50: Sets g[D] to g[A] + g[B] modulo 2^64. -/
  | add (o : OpDAB)
  /-- R50: Sets g[D] to g[A] − g[B] modulo 2^64. -/
  | sub (o : OpDAB)
  /-- R50: Sets g[D] to the bitwise and of g[A] and g[B]. -/
  | and (o : OpDAB)
  /-- R50: Sets g[D] to the bitwise or of g[A] and g[B]. -/
  | or (o : OpDAB)
  /-- R50: Sets g[D] to the bitwise exclusive or of g[A] and g[B]. -/
  | xor (o : OpDAB)
  /-- R50: Sets g[D] to g[A] & ~g[B]. -/
  | andn (o : OpDAB)
  /-- R50: Shifts g[A] left by g[B][5:0] into g[D]. -/
  | shl (o : OpDAB)
  /-- R50: Shifts g[A] right logically by g[B][5:0] into g[D]. -/
  | shr (o : OpDAB)
  /-- R50: Shifts g[A] right arithmetically by g[B][5:0] into g[D]. -/
  | sar (o : OpDAB)
  /-- R50: Rotates g[A] left by g[B][5:0] into g[D]. -/
  | rotl (o : OpDAB)
  /-- R50: Sets g[D] to the signed smaller of g[A] and g[B]. -/
  | min (o : OpDAB)
  /-- R50: Sets g[D] to the signed larger of g[A] and g[B]. -/
  | max (o : OpDAB)
  /-- R50: Sets g[D] to the unsigned smaller of g[A] and g[B]. -/
  | minn (o : OpDAB)
  /-- R50: Sets g[D] to the unsigned larger of g[A] and g[B]. -/
  | maxn (o : OpDAB)
  /-- R50: Sets g[D] to the low 64 bits of the product. -/
  | mul (o : OpDAB)
  /-- R50: Sets g[D] to the high 64 bits of the signed product. -/
  | mulh (o : OpDAB)
  /-- R50: Sets g[D] to the high 64 bits of the unsigned product. -/
  | mulhn (o : OpDAB)
  /-- R51: Signed division without trap; quotient to g[D]. -/
  | div (o : OpDAB)
  /-- R51: Unsigned division without trap; quotient to g[D]. -/
  | divn (o : OpDAB)
  /-- R51: Signed remainder without trap to g[D]. -/
  | rem (o : OpDAB)
  /-- R51: Unsigned remainder without trap to g[D]. -/
  | remn (o : OpDAB)
  /-- R50: Counts leading zero bits of g[A] into g[D]. -/
  | clz (o : OpDA)
  /-- R50: Counts one bits of g[A] into g[D]. -/
  | popc (o : OpDA)
  /-- R50: Sign-extends g[A][7:0] into g[D]. -/
  | sxb (o : OpDA)
  /-- R50: Sign-extends g[A][15:0] into g[D]. -/
  | sxh (o : OpDA)
  /-- R50: Sign-extends g[A][31:0] into g[D]. -/
  | sxw (o : OpDA)
  /-- R50: Zero-extends g[A][7:0] into g[D]. -/
  | zxb (o : OpDA)
  /-- R50: Zero-extends g[A][15:0] into g[D]. -/
  | zxh (o : OpDA)
  /-- R50: Zero-extends g[A][31:0] into g[D]. -/
  | zxw (o : OpDA)
  /-- R50: 32-bit add sign-extended to 64 bits into g[D]. -/
  | addw (o : OpDAB)
  /-- R50: 32-bit subtract sign-extended to 64 bits into g[D]. -/
  | subw (o : OpDAB)
  /-- R50: 32-bit multiply sign-extended to 64 bits into g[D]. -/
  | mulw (o : OpDAB)
  /-- R52: Adds the sign-extended immediate to g[A] into g[D]. -/
  | addi (o : OpDAI)
  /-- R52: Ands g[A] with the sign-extended immediate into g[D]. -/
  | andi (o : OpDAI)
  /-- R52: Ors g[A] with the sign-extended immediate into g[D]. -/
  | ori (o : OpDAI)
  /-- R52: Exclusive-ors g[A] with the sign-extended immediate into g[D]. -/
  | xori (o : OpDAI)
  /-- R52: Shifts g[A] left by IMM11[5:0] into g[D]. -/
  | shli (o : OpDAS)
  /-- R52: Shifts g[A] right logically by IMM11[5:0] into g[D]. -/
  | shri (o : OpDAS)
  /-- R52: Shifts g[A] right arithmetically by IMM11[5:0] into g[D]. -/
  | sari (o : OpDAS)
  /-- R53: Sets g[D] to the sign-extended 16-bit immediate. -/
  | li (o : OpDI)
  /-- R54: Shifts g[D] left 16 and ors in the unsigned immediate. -/
  | lsh (o : OpDI)
  /-- R55: Compares g[A] with g[B] and sets or combines the result into a predicate. -/
  | cmp (o : OpCmp)
  /-- R56: Compares g[A] with a sign-extended immediate and sets a predicate. -/
  | cmpi (o : OpCmpi)
  /-- R57: Sets p[D] to p[A] and p[B]. -/
  | pand (o : OpP3)
  /-- R57: Sets p[D] to p[A] or p[B]. -/
  | por (o : OpP3)
  /-- R57: Sets p[D] to p[A] xor p[B]. -/
  | pxor (o : OpP3)
  /-- R57: Sets p[D] to p[A] and not p[B]. -/
  | pandn (o : OpP3)
  /-- R57: Sets p[D] to not p[A]. -/
  | pnot (o : OpP2)
  /-- R57: Sets p[D] to p[A]. -/
  | pmov (o : OpP2)
  /-- R58: Selects g[A] or g[B] into g[D] by a predicate. -/
  | sel (o : OpSel)
  /-- R60: Loads a sign-extended byte into g[D]. -/
  | ldB (o : OpM)
  /-- R60: Loads a zero-extended byte into g[D]. -/
  | ldBz (o : OpM)
  /-- R60: Loads a sign-extended half into g[D]. -/
  | ldH (o : OpM)
  /-- R60: Loads a zero-extended half into g[D]. -/
  | ldHz (o : OpM)
  /-- R60: Loads a sign-extended word into g[D]; in a filter window returns tap Y. -/
  | ldW (o : OpM)
  /-- R60: Loads a zero-extended word into g[D]. -/
  | ldWz (o : OpM)
  /-- R60: Loads a doubleword into g[D]. -/
  | ldD (o : OpM)
  /-- R61: Checks and queues a byte store of g[S]. -/
  | stB (o : OpM)
  /-- R61: Checks and queues a half store of g[S]. -/
  | stH (o : OpM)
  /-- R61: Checks and queues a word store of g[S]; in a filter window it is a deposit. -/
  | stW (o : OpM)
  /-- R61: Checks and queues a doubleword store of g[S]. -/
  | stD (o : OpM)
  /-- R63: Loads spill slot IMM16[8:0] into g[D]. -/
  | sld (o : OpSpill)
  /-- R63: Stores g[D] into spill slot IMM16[8:0]. -/
  | sst (o : OpSpill)
  /-- R223: Reads one named tap of a filter cell into g[D]. -/
  | fld (o : OpFld)
  /-- R223: Reads two taps of one filter cell generation into g[D] and g[D+1]. -/
  | fld2 (o : OpFld2)
  /-- R190: Atomically adds g[B] to the doubleword at g[A] with implied fences. -/
  | amoAdd (o : OpAmo)
  /-- R190: Atomically ands g[B] into the doubleword at g[A]. -/
  | amoAnd (o : OpAmo)
  /-- R190: Atomically ors g[B] into the doubleword at g[A]. -/
  | amoOr (o : OpAmo)
  /-- R190: Atomically exclusive-ors g[B] into the doubleword at g[A]. -/
  | amoXor (o : OpAmo)
  /-- R190: Atomically keeps the signed smaller of memory and g[B]. -/
  | amoMin (o : OpAmo)
  /-- R190: Atomically keeps the signed larger of memory and g[B]. -/
  | amoMax (o : OpAmo)
  /-- R190: Atomically swaps g[B] into the doubleword at g[A]. -/
  | amoSwp (o : OpAmo)
  /-- R190: Atomically writes g[B] if memory equals g[D]. -/
  | amoCas (o : OpAmo)
  /-- R190: Atomically keeps the unsigned smaller of memory and g[B]. -/
  | amoMinn (o : OpAmo)
  /-- R190: Atomically keeps the unsigned larger of memory and g[B]. -/
  | amoMaxn (o : OpAmo)
  /-- R193: Waits until earlier accesses of the masked classes have performed or left toward homes outside the scope. -/
  | fence (o : OpFence)
  /-- R179: Binds a barrier to an aligned sub-rectangle. -/
  | barInit (o : OpBar)
  /-- R179: Counts an arrival at a barrier instance, completing phases. -/
  | barArr (o : OpBar)
  /-- R179: Stalls until the phase of an earlier arrival has completed. -/
  | barWait (o : OpBar)
  /-- R179: Arrives at a barrier and waits for that phase. -/
  | barAw (o : OpBar)
  /-- R243: Stalls until every producer of the slot issued so far has completed. -/
  | tokWait (o : OpTok)
  /-- R243: Sets a predicate to DONE = ISS of a token slot. -/
  | tokTest (o : OpTokP)
  /-- R243: Reads ISS of a token slot into g[A]. -/
  | tokSnap (o : OpTokA)
  /-- R243: Stalls until the producers up to a snapshot have completed, trapping on an impossible value. -/
  | tokWaitv (o : OpTokA)
  /-- R254: Sets a waymark's TARGET and clears COUNT and AUX. -/
  | wmkInit (o : OpAB)
  /-- R254: Stalls while a waymark's GEN equals g[B]. -/
  | wmkWait (o : OpAB)
  /-- R254: Applies an arrival of g[B] bytes to a waymark. -/
  | wmkAdd (o : OpAB)
  /-- R254: Reads a waymark's GEN into g[D]. -/
  | wmkGen (o : OpDA)
  /-- R254: Sets a predicate to GEN differing from g[B]. -/
  | wmkTest (o : OpPAB)
  /-- R64: Branches PC-relative. -/
  | br (o : OpB)
  /-- R64: Branches PC-relative and writes the return address to g31. -/
  | call (o : OpB)
  /-- R65: Jumps to the address in g[A]. -/
  | jr (o : OpA)
  /-- R65: Jumps to g[A] and writes the return address to g[D]. -/
  | jrl (o : OpDA)
  /-- R67: Checks and starts a hardware loop on a loop engine. -/
  | loop (o : OpLoop)
  /-- R71: Sets the exit request of an active loop engine. -/
  | lexit (o : OpL)
  /-- R274: Issues a command that reads a tile record into the shadow plane. -/
  | mload (o : OpE)
  /-- R275: Issues a command that exchanges the active and shadow planes. -/
  | mswap (o : OpE)
  /-- R276: Issues a setting that writes one level of the nest configuration. -/
  | mcfg (o : OpE)
  /-- R277: Issues a command that runs the nest of waves over the active plane. -/
  | mgo (o : OpE)
  /-- R278: Issues a command that runs waves over consecutive activation rows. -/
  | mstream (o : OpE)
  /-- R279: Issues a command that converts accumulator rows and writes them to the scratchpad. -/
  | mdrain (o : OpE)
  /-- R280: Issues a command that sets accumulator rows to +0. -/
  | mzero (o : OpE)
  /-- R281: Issues a setting that sets the drain rounding mode and SATF. -/
  | mmode (o : OpE)
  /-- R287: Issues a command that latches a weight-stream code table. -/
  | wtab (o : OpE)
  /-- R288: Issues a command that decodes an entropy-coded tile into the shadow plane. -/
  | wstream (o : OpE)
  /-- R250: Issues a copy of LEN bytes on a channel. -/
  | cpy (o : OpE)
  /-- R251: Issues a nested two-level strided copy. -/
  | cnest (o : OpE)
  /-- R255: Issues a multicast that parks a tile in the quire lay-by. -/
  | cmc (o : OpE)
  /-- R256: Issues a drain of a parked lay-by tile to this core. -/
  | cacc (o : OpE)
  /-- R257: Issues a gather of mask-selected rows. -/
  | cgat (o : OpE)
  /-- R257: Issues a scatter of packed rows to mask-selected rows. -/
  | csct (o : OpE)
  /-- R259: Issues a release of copy-schedule units. -/
  | cstage (o : OpE)
  /-- R209: Issues a bind or unbind of a filter region to a slot. -/
  | fbind (o : OpE)
  /-- R215: Issues a tick of a range of filter cells. -/
  | ftick (o : OpE)
  /-- R202: Issues a stack-unit traversal of a list, hash table or indirection table. -/
  | walk (o : OpE)
  /-- R74: Has no effect. -/
  | nop (o : Guard)
  /-- R75: Stops issue and begins the waits that end the core's part of its task; in SYSTEM mode discards held entries and may fault the task. -/
  | halt (o : Guard)
  /-- R76: Raises a trap with cause TRAPI and TINFO g[A]. -/
  | trap (o : OpA)
  /-- R303: Returns from a handler, optionally dropping the faulted entry, and resumes the queues. -/
  | eret (o : Guard)
  /-- R78: Raises a BREAK trap, or a debug stop when claimed. -/
  | brk (o : Guard)
  /-- R79: Discards fetched and cached instruction words. -/
  | ifence (o : Guard)
  /-- R80: Emits a MARK trace record carrying g[A]. -/
  | tmark (o : OpA)
  /-- R81: Offers the core for pre-emption at this boundary. -/
  | yield (o : Guard)
  /-- R73: Reads a CSR into g[D]. -/
  | csrr (o : OpDC)
  /-- R73: Writes g[A] to a CSR by its field access codes. -/
  | csrw (o : OpAC)
  /-- R140: Waits until every earlier vector word has issued and written its results. -/
  | vfence (o : Guard)
  /-- R141: Sets a predicate to whether a vfence would wait. -/
  | vbusy (o : OpP)
  /-- R142: Places a rounding-mode entry in the VU queue. -/
  | vmode (o : OpA)
  /-- R143: Pops the oldest result-FIFO entry into g[D]. -/
  | vtake (o : OpD)
  /-- R118: Elementwise floating-point add. -/
  | vadd (o : OpV)
  /-- R118: Elementwise floating-point subtract. -/
  | vsub (o : OpV)
  /-- R118: Elementwise floating-point multiply. -/
  | vmul (o : OpV)
  /-- R118: Elementwise fused multiply-add. -/
  | vfma (o : OpV)
  /-- R118: Elementwise fused negated multiply-add. -/
  | vfms (o : OpV)
  /-- R118: Elementwise floating-point minimum. -/
  | vmin (o : OpV)
  /-- R118: Elementwise floating-point maximum. -/
  | vmax (o : OpV)
  /-- R118: Clears the sign of each element. -/
  | vabs (o : OpV)
  /-- R118: Inverts the sign of each element. -/
  | vneg (o : OpV)
  /-- R118: Adds a scalar to each element. -/
  | vadds (o : OpV)
  /-- R118: Multiplies each element by a scalar. -/
  | vmuls (o : OpV)
  /-- R118: Fused multiply by a scalar and add VD. -/
  | vfmas (o : OpV)
  /-- R119: Elementwise reciprocal by the reference algorithm. -/
  | vrcp (o : OpV)
  /-- R119: Elementwise reciprocal square root. -/
  | vrsq (o : OpV)
  /-- R119: Elementwise base-2 exponential. -/
  | vexp2 (o : OpV)
  /-- R119: Elementwise base-2 logarithm. -/
  | vlog2 (o : OpV)
  /-- R120: Elementwise integer add. -/
  | viadd (o : OpV)
  /-- R120: Elementwise integer subtract. -/
  | visub (o : OpV)
  /-- R120: Elementwise integer multiply. -/
  | vimul (o : OpV)
  /-- R120: Elementwise bitwise and. -/
  | vand (o : OpV)
  /-- R120: Elementwise bitwise or. -/
  | vor (o : OpV)
  /-- R120: Elementwise bitwise exclusive or. -/
  | vxor (o : OpV)
  /-- R120: Elementwise shift left. -/
  | vshl (o : OpV)
  /-- R120: Elementwise logical shift right. -/
  | vshr (o : OpV)
  /-- R120: Elementwise arithmetic shift right. -/
  | vsar (o : OpV)
  /-- R120: Elementwise integer minimum. -/
  | vimin (o : OpV)
  /-- R120: Elementwise integer maximum. -/
  | vimax (o : OpV)
  /-- R120: Adds an integer scalar to each element. -/
  | viadds (o : OpV)
  /-- R121: Compares two registers elementwise into a mask. -/
  | vcmp (o : OpV)
  /-- R121: Compares a register with a scalar into a mask. -/
  | vcmps (o : OpV)
  /-- R122: Selects VA or VB per element by the mask. -/
  | vsel (o : OpV)
  /-- R122: Copies VA to VD under the mask. -/
  | vmov (o : OpV)
  /-- R122: Broadcasts g[GS][31:0] to every element. -/
  | vbcs (o : OpV)
  /-- R123: Writes each element's index along the selected axis. -/
  | viota (o : OpV)
  /-- R124: Combines two mask registers bitwise. -/
  | kop (o : OpV)
  /-- R125: Writes the count of set bits of each mask row. -/
  | kpop (o : OpV)
  /-- R126: Pushes one element onto the VU result FIFO. -/
  | vget (o : OpV)
  /-- R127: Rotates along the row axis. -/
  | vrotr (o : OpV)
  /-- R127: Rotates along the column axis. -/
  | vrotc (o : OpV)
  /-- R127: Broadcasts one column across each row. -/
  | vbcr (o : OpV)
  /-- R127: Broadcasts one row down each column. -/
  | vbcc (o : OpV)
  /-- R128: Reduces each row by a fixed pairwise tree. -/
  | vredr (o : OpV)
  /-- R128: Reduces each column by a fixed pairwise tree. -/
  | vredc (o : OpV)
  /-- R127: Shuffles each row by indices in VB. -/
  | vshuf (o : OpV)
  /-- R129: Converts elements between floating-point and 8-bit formats. -/
  | vcvt (o : OpV)
  /-- R131: Narrows two registers into one. -/
  | vpack (o : OpV)
  /-- R132: Widens one half of each element. -/
  | vunpk (o : OpV)
  /-- R130: Converts floats to integers. -/
  | vfix (o : OpV)
  /-- R130: Converts integers to floats. -/
  | vflt (o : OpV)
  /-- R135: Checks rows, issues a run-ahead load, and writes VD from the load queue at issue. -/
  | vld (o : OpV)
  /-- R137: Checks rows, queues a masked store, and supplies its data at issue. -/
  | vst (o : OpV)
  /-- R136: Loads one element per row and broadcasts it across the row. -/
  | vldb (o : OpV)
  /-- R138: Atomically adds elements into 32-bit memory words at their homes. -/
  | vstadd (o : OpV)
  /-- R139: Stores zero rows as a vst. -/
  | vzero (o : OpV)
  /-- R26: Data of a run-ahead vector load arrives in the load queue, or its fault is charged to the entry. -/
  | loadQueueData (core idx : Nat) (piece : Option Nat)
  /-- R26: A queued store performs at its home, or is reported without writing on an uncorrectable error. -/
  | storePerform (core entry piece : Nat)
  /-- R75: The waits of halt end and the core becomes idle, unbinding its filter slots. -/
  | coreIdle (core : Nat)
  /-- R240: The head of an engine queue starts once its consumed tokens and start conditions hold. -/
  | engineCommandStart (core : Nat) (q : EngQ)
  /-- R241: An engine command completes and DONE of its token slot advances over complete prefixes. -/
  | engineCommandComplete (core : Nat) (q : EngQ) (num : Nat)
  /-- R270: One wave of the matrix engine updates one accumulator row. -/
  | wave (core : Nat)
  /-- R253: Bytes that have performed arrive at a waymark, possibly advancing GEN. -/
  | waymarkArrival (core num bytes : Nat)
  /-- R255: A cmc claims a free lay-by slot and parks its tile. -/
  | parking (core num : Nat)
  /-- R256: A cacc finds its parked tile and writes it to this core. -/
  | tileDrain (core num : Nat)
  /-- R212: A sample is applied to a filter cell at its home as one atomic step. -/
  | deposit (core entry piece : Nat)
  /-- R200: The controller seals a parity-pending stripe once every writing bank has finished. -/
  | seal (stripe : Nat)
  /-- R197: A channel starts retraining after a 5 °C move or 10 minutes. -/
  | retrainBegin (stack ch : Nat)
  /-- R197: A channel's retraining ends. -/
  | retrainEnd (stack ch : Nat) (ok : Bool)
  /-- R197: The background pass has rewritten every stale chunk of a channel. -/
  | rebuilt (stack ch : Nat)
  /-- R171: The scheduler admits one entry from a launch queue per round. -/
  | admission (part : BitVec 4)
  /-- R173: The scheduler reserves the cores, loads the image, and releases the cores of a READY task. -/
  | taskStart (part : BitVec 4)
  /-- R174: A task entering a final state updates its successors and posts a completion entry. -/
  | retirement (part : BitVec 4) (rec : Word)
  /-- R341: A waiting completion entry is posted once the ring has room. -/
  | completionEntry (part : BitVec 4)
  /-- R176: The task budget expires and a HANG entry is posted. -/
  | hang (part : BitVec 4) (rec : Word)
  /-- R307: The scheduler requests a stop of lower-priority tasks so that the head can start. -/
  | preemption (part : BitVec 4)
  /-- R312: A stopped core exchanges its running and shadow contexts. -/
  | swap (core : Nat)
  /-- R313: A suspended task's cores swap back together and it becomes RUNNING. -/
  | taskResume (part : BitVec 4) (rec : Word)
  /-- R294: After the stop completes the core records the cut and enters the handler or halts. -/
  | trapEntry (core : Nat)
  /-- R331: A debug stop completes once started engine commands have run to completion. -/
  | debugStop (core : Nat)
  /-- R308: A write to PRQ.REQ requests or withdraws a software pre-emption. -/
  | prqReq (core : Nat) (v : Word)
  /-- R329: A DBGCTL write requests a debug stop. -/
  | haltreq (core : Nat)
  /-- R331: A DBGCTL write resumes a debug-stopped core, stepping if STEP is set. -/
  | resume (core : Nat)
  /-- R329: Writing CLAIM claims the core for the debugger; clearing it while stopped resumes it. -/
  | claim (core : Nat) (own : Bool)
  /-- R314: Writing STATE := 0 empties the shadow context and releases the core. -/
  | ctxctlEmpty (core : Nat)
  /-- R316: Writing STATE := 2 authenticates a sealed image and marks the shadow loaded. -/
  | ctxctlLoaded (core : Nat)
  /-- R316: A host read of offset 0 of the sealed view advances SEQ and encrypts the image. -/
  | sealing (core : Nat)
  /-- R175: Writing 1 to PLCTL.FRZ thaws admission and starts. -/
  | frzThaw (part : BitVec 4)
  /-- R166: A write of COWN assigns or releases cores of a partition, wiping on change of owner. -/
  | cownWrite (part : BitVec 4) (k : Nat) (v : Word)
  /-- R185: Writing GO starts discarding every translation of the partition. -/
  | tlbinvGo (part : BitVec 4)
  /-- R185: The translation invalidation completes and GO reads 0. -/
  | invalidationComplete (part : BitVec 4)
  /-- R324: Setting TSCTL.EN clears the sink counters and emits SYNC. -/
  | sinkEnable (sink : Nat)
  /-- R322: A SYNC record is emitted whenever TIME[39:0] wraps to 0. -/
  | sync (sink : Nat)
  /-- R323: A SAMPLE record is emitted every 2^SAMP core cycles. -/
  | sample (core : Nat)
  /-- R325: When a lossy sink next has room, a DROP record reports the lost records. -/
  | drop (sink : Nat)
  /-- R326: A unit that lossless trace has stalled for `ticks` units of TIME resumes and emits a STALL record. -/
  | stall (core : Nat) (unit : TrUnit) (ticks : Nat)
  /-- R339: Setting CQCTL.EN clears CQHEAD, CQTAIL and CQDROP. -/
  | cqEnable (part : BitVec 4)
  /-- R338: A host write of CQTAIL consumes entries and clears the vector's pending state. -/
  | cqtailWrite (part : BitVec 4) (v : Word)
  /-- R338: A host read of DEVEVT returns and consumes the oldest event and clears vector 16's pending state. -/
  | devevtRead
  /-- R335: Writing PCTL.CLR clears every profiling counter. -/
  | pctlClr (core : Nat)
  /-- R347: A lender offers a 2 GiB unit for lease. -/
  | offer (e : Nat)
  /-- R347: A borrower accepts an offered lease. -/
  | accept (e : Nat) (peer : PeerSide)
  /-- R347: A lender revokes a lease and sets the deadline on both sides. -/
  | revoke (e : Nat) (peer : PeerSide)
  /-- R347: A borrower releases a lease. -/
  | release (e : Nat) (peer : PeerSide)
  /-- R347: A revoked lease entry returns to EMPTY once the wipe is complete. -/
  | clear (e : Nat)
  /-- R347: The lender's TIME reaches DEADLINE and the lease becomes REVOKED, starting the wipe. -/
  | deadline (e : Nat)
  /-- R348: A lease access arrives at the lender and is served or refused. -/
  | leaseAccess (e off : Nat) (req : PeerReq) (sent : Nat)
  /-- R343: A peer access arrives through the export map and is served or refused. -/
  | exportAccess (va : Word) (part : BitVec 4) (req : PeerReq) (sent : Nat)
  /-- R337: A host CXL.mem read of HBM, answered with poison on an uncorrectable error. -/
  | hostMemRead (m : HostAddr) (n : Nat)
  /-- R337: A host CXL.mem write to HBM. -/
  | hostMemWrite (m : HostAddr) (bytes : List Byte)
  /-- R353: A junction reaches 110 °C and the clocks of the compute dies and HBM stop. -/
  | trip (loc : BitVec 2) (stack : BitVec 3) (temp : BitVec 12)
  /-- R354: Reset runs the start-up sequence: BOOTCNT, firmware verification, HBM training and wipe. -/
  | deviceReset (image : List Byte) (sig : FirmwareSig)
  /-- R354: Once every junction reads −20 °C or above and training and wipe are done, the compute domains are released and READY is set. -/
  | computeRelease
  /-- R356: A write of LCREQ requests a lifecycle transition, closing the debug port and wiping. -/
  | lcreq (v : Word)
  /-- R357: A write of MWIPE starts a command wipe or is refused. -/
  | mwipe (v : Word)
  /-- R364: A command wipe completes and MWSTAT.DONE is set. -/
  | wipeComplete
  /-- R358: Starts a new SHA-512 hash. -/
  | shactlInit
  /-- R358: Pads and completes the open hash into SHADIG. -/
  | shactlFinal
  /-- R358: Absorbs 8 bytes into the open hash. -/
  | shain (v : Word)
  /-- R364: Starts an ECDSA P-521 verify and clears MWSTAT.DONE. -/
  | ecctlGo
  /-- R364: The verify completes, ECSTAT becomes valid or invalid and NONCE is renewed. -/
  | verifyComplete
  /-- R358: Zeroes all 16 tenant key slots. -/
  | kwipe (v : Word)
  /-- R358: Extends a measurement register with SHADIG. -/
  | amext (v : Word)
  /-- R360: A write of DPORT opens the debug port only if the unlock conditions hold. -/
  | dport (v : Word)
  /-- R358: A read of RNG returns 64 fresh random bits. -/
  | rng (d : BitVec 5)
  /-- R362: A host write to the unlock mailbox, ignored while DOOR is odd. -/
  | mailboxWrite (off : Nat) (v : Word)
  /-- R8: A write to an MMIO register without behaviour of its own, applied by its access codes or refused. -/
  | registerWrite (m : HostAddr) (v : Word)
  /-- R353: The power governor lowers the core clock, slows wave admission and resets the stack budgets to keep PWRNOW within PLIM and junctions within 105 °C, setting THERM.THROT. -/
  | governorSlowing (power temp : BitVec 12) (budget : List Nat)
  /-- R348: The lender's wipe of a revoked 2 GiB lease unit completes, which allows CLEAR to return the entry to EMPTY. -/
  | lenderWipeComplete (e : Nat)
  /-- R361: An SPDM 1.3 request arrives at the colophon through the CXL.io Data Object Exchange mailbox and is answered. -/
  | spdmRequest (req : List Byte)
  deriving DecidableEq, Repr

end Sys2Proof
end

