-- ==== Sys2Proof/Decode.lean ====
section
/-!
DEFINITION. Decode and encode: the words of "Instruction formats and the opcode map" (R30 to R46). `decode` is total and
rejects by name every word that traps with cause ILLEGAL at the decode check of R32 (R38); `encode` writes a well-formed
instruction's word from the same layouts.
-/

namespace Sys2Proof

/-- Why a word names no instruction (the table "Encodings that trap with cause ILLEGAL" of R38, and R42). -/
inductive DecodeErr | unassignedOp | unassignedMinor | idOutOfRange | loopLenZero | unassignedVop | notAWord
  deriving DecidableEq, Repr

/-- The bits `hi = lo + n − 1` down to `lo` of a word (R7). -/
def field (w : Code) (lo n : Nat) : BitVec n := w.extractLsb' lo n

/-- The VOP code of a vector opcode (R42). -/
def VOp.code : VOp → BitVec 7
  | .vadd => 0x00
  | .vsub => 0x01
  | .vmul => 0x02
  | .vfma => 0x03
  | .vfms => 0x04
  | .vmin => 0x05
  | .vmax => 0x06
  | .vabs => 0x07
  | .vneg => 0x08
  | .vadds => 0x09
  | .vmuls => 0x0A
  | .vfmas => 0x0B
  | .vrcp => 0x0C
  | .vrsq => 0x0D
  | .vexp2 => 0x0E
  | .vlog2 => 0x0F
  | .viadd => 0x10
  | .visub => 0x11
  | .vimul => 0x12
  | .vand => 0x13
  | .vor => 0x14
  | .vxor => 0x15
  | .vshl => 0x16
  | .vshr => 0x17
  | .vsar => 0x18
  | .vimin => 0x19
  | .vimax => 0x1A
  | .viadds => 0x1B
  | .vcmp => 0x20
  | .vcmps => 0x21
  | .vsel => 0x22
  | .vmov => 0x23
  | .vbcs => 0x24
  | .viota => 0x25
  | .kop => 0x26
  | .kpop => 0x27
  | .vget => 0x28
  | .vrotr => 0x30
  | .vrotc => 0x31
  | .vbcr => 0x32
  | .vbcc => 0x33
  | .vredr => 0x34
  | .vredc => 0x35
  | .vshuf => 0x36
  | .vcvt => 0x40
  | .vpack => 0x41
  | .vunpk => 0x42
  | .vfix => 0x43
  | .vflt => 0x44
  | .vld => 0x50
  | .vst => 0x51
  | .vldb => 0x52
  | .vstadd => 0x53
  | .vzero => 0x54

/-- The opcode of a VOP code, or `none` where the table of R42 shows "—". -/
def VOp.ofCode (c : BitVec 7) : Option VOp :=
  match c.toNat with
  | 0x00 => some .vadd
  | 0x01 => some .vsub
  | 0x02 => some .vmul
  | 0x03 => some .vfma
  | 0x04 => some .vfms
  | 0x05 => some .vmin
  | 0x06 => some .vmax
  | 0x07 => some .vabs
  | 0x08 => some .vneg
  | 0x09 => some .vadds
  | 0x0A => some .vmuls
  | 0x0B => some .vfmas
  | 0x0C => some .vrcp
  | 0x0D => some .vrsq
  | 0x0E => some .vexp2
  | 0x0F => some .vlog2
  | 0x10 => some .viadd
  | 0x11 => some .visub
  | 0x12 => some .vimul
  | 0x13 => some .vand
  | 0x14 => some .vor
  | 0x15 => some .vxor
  | 0x16 => some .vshl
  | 0x17 => some .vshr
  | 0x18 => some .vsar
  | 0x19 => some .vimin
  | 0x1A => some .vimax
  | 0x1B => some .viadds
  | 0x20 => some .vcmp
  | 0x21 => some .vcmps
  | 0x22 => some .vsel
  | 0x23 => some .vmov
  | 0x24 => some .vbcs
  | 0x25 => some .viota
  | 0x26 => some .kop
  | 0x27 => some .kpop
  | 0x28 => some .vget
  | 0x30 => some .vrotr
  | 0x31 => some .vrotc
  | 0x32 => some .vbcr
  | 0x33 => some .vbcc
  | 0x34 => some .vredr
  | 0x35 => some .vredc
  | 0x36 => some .vshuf
  | 0x40 => some .vcvt
  | 0x41 => some .vpack
  | 0x42 => some .vunpk
  | 0x43 => some .vfix
  | 0x44 => some .vflt
  | 0x50 => some .vld
  | 0x51 => some .vst
  | 0x52 => some .vldb
  | 0x53 => some .vstadd
  | 0x54 => some .vzero
  | _ => none

/-- Which register fields a vector opcode uses (R116, R118 to R139): VD, VA, VB and GS; and whether VD, VA, VB name a mask,
in which case bit 3 of the field is ignored (R41). -/
structure VUse where
  d : Bool := false
  a : Bool := false
  b : Bool := false
  s : Bool := false
  kd : Bool := false
  ka : Bool := false
  kb : Bool := false
  deriving DecidableEq, Repr

/-- The fields each vector opcode uses. -/
def VOp.use : VOp → VUse
  | .vadd | .vsub | .vmul | .vfma | .vfms | .vmin | .vmax | .viadd
  | .visub | .vimul | .vand | .vor | .vxor | .vshl | .vshr | .vsar
  | .vimin | .vimax | .vsel | .vshuf | .vpack => { d := true, a := true, b := true }
  | .vabs | .vneg | .vrcp | .vrsq | .vexp2 | .vlog2 | .vmov | .vredr
  | .vredc | .vcvt | .vunpk | .vfix | .vflt => { d := true, a := true }
  | .vadds | .vmuls | .vfmas | .viadds | .vrotr | .vrotc | .vbcr | .vbcc => { d := true, a := true, s := true }
  | .vcmp => { d := true, kd := true, a := true, b := true }
  | .vcmps => { d := true, kd := true, a := true, s := true }
  | .vbcs | .vld | .vldb => { d := true, s := true }
  | .viota => { d := true }
  | .kop => { d := true, kd := true, a := true, ka := true, b := true, kb := true }
  | .kpop => { d := true, a := true, ka := true }
  | .vget | .vst | .vstadd => { a := true, s := true }
  | .vzero => { s := true }

/-- The ignored bits of a vector word read as zero (R35): two words that differ only in them are one instruction. -/
def VOp.norm (op : VOp) (o : OpV) : OpV :=
  let u := op.use
  { o with
    d := if u.d then (if u.kd then o.d &&& 7 else o.d) else 0
    a := if u.a then (if u.ka then o.a &&& 7 else o.a) else 0
    b := if u.b then (if u.kb then o.b &&& 7 else o.b) else 0
    s := if u.s then o.s else 0 }

/-- The instruction of a vector opcode. -/
def VOp.instr (op : VOp) (o : OpV) : Instr :=
  match op with
  | .vadd => .vadd o
  | .vsub => .vsub o
  | .vmul => .vmul o
  | .vfma => .vfma o
  | .vfms => .vfms o
  | .vmin => .vmin o
  | .vmax => .vmax o
  | .vabs => .vabs o
  | .vneg => .vneg o
  | .vadds => .vadds o
  | .vmuls => .vmuls o
  | .vfmas => .vfmas o
  | .vrcp => .vrcp o
  | .vrsq => .vrsq o
  | .vexp2 => .vexp2 o
  | .vlog2 => .vlog2 o
  | .viadd => .viadd o
  | .visub => .visub o
  | .vimul => .vimul o
  | .vand => .vand o
  | .vor => .vor o
  | .vxor => .vxor o
  | .vshl => .vshl o
  | .vshr => .vshr o
  | .vsar => .vsar o
  | .vimin => .vimin o
  | .vimax => .vimax o
  | .viadds => .viadds o
  | .vcmp => .vcmp o
  | .vcmps => .vcmps o
  | .vsel => .vsel o
  | .vmov => .vmov o
  | .vbcs => .vbcs o
  | .viota => .viota o
  | .kop => .kop o
  | .kpop => .kpop o
  | .vget => .vget o
  | .vrotr => .vrotr o
  | .vrotc => .vrotc o
  | .vbcr => .vbcr o
  | .vbcc => .vbcc o
  | .vredr => .vredr o
  | .vredc => .vredc o
  | .vshuf => .vshuf o
  | .vcvt => .vcvt o
  | .vpack => .vpack o
  | .vunpk => .vunpk o
  | .vfix => .vfix o
  | .vflt => .vflt o
  | .vld => .vld o
  | .vst => .vst o
  | .vldb => .vldb o
  | .vstadd => .vstadd o
  | .vzero => .vzero o

/-- The guard fields of a scalar word (R30, R31). -/
def guardOf (w : Code) : Guard := { g := field w 28 3, n := field w 27 1 }

/-! ### Operand layouts (R33, R34, R38) -/

/-- Reads `OpDAB`. -/
def opDAB (w : Code) : OpDAB :=
  { toGuard := guardOf w, d := field w 16 5, a := field w 11 5, b := field w 6 5 }
/-- Reads `OpDA`. -/
def opDA (w : Code) : OpDA :=
  { toGuard := guardOf w, d := field w 16 5, a := field w 11 5 }
/-- Reads `OpAB`. -/
def opAB (w : Code) : OpAB :=
  { toGuard := guardOf w, a := field w 11 5, b := field w 6 5 }
/-- Reads `OpPAB`. -/
def opPAB (w : Code) : OpPAB :=
  { toGuard := guardOf w, p := field w 16 3, a := field w 11 5, b := field w 6 5 }
/-- Reads `OpA`. -/
def opA (w : Code) : OpA :=
  { toGuard := guardOf w, a := field w 11 5 }
/-- Reads `OpD`. -/
def opD (w : Code) : OpD :=
  { toGuard := guardOf w, d := field w 16 5 }
/-- Reads `OpP`. -/
def opP (w : Code) : OpP :=
  { toGuard := guardOf w, p := field w 16 3 }
/-- Reads `OpDAI`. -/
def opDAI (w : Code) : OpDAI :=
  { toGuard := guardOf w, d := field w 16 5, a := field w 11 5, i := field w 0 11 }
/-- Reads `OpDAS`. -/
def opDAS (w : Code) : OpDAS :=
  { toGuard := guardOf w, d := field w 16 5, a := field w 11 5, i := field w 0 6 }
/-- Reads `OpDI`. -/
def opDI (w : Code) : OpDI :=
  { toGuard := guardOf w, d := field w 16 5, i := field w 0 16 }
/-- Reads `OpCmp`. -/
def opCmp (w : Code) : OpCmp :=
  { toGuard := guardOf w, m := field w 19 2, p := field w 16 3, a := field w 11 5, b := field w 6 5, c := field w 0 3 }
/-- Reads `OpCmpi`. -/
def opCmpi (w : Code) : OpCmpi :=
  { toGuard := guardOf w, p := field w 18 3, c := field w 15 3, a := field w 10 5, i := field w 0 10 }
/-- Reads `OpP3`. -/
def opP3 (w : Code) : OpP3 :=
  { toGuard := guardOf w, d := field w 16 3, a := field w 11 3, b := field w 6 3 }
/-- Reads `OpP2`. -/
def opP2 (w : Code) : OpP2 :=
  { toGuard := guardOf w, d := field w 16 3, a := field w 11 3 }
/-- Reads `OpSel`. -/
def opSel (w : Code) : OpSel :=
  { toGuard := guardOf w, d := field w 16 5, a := field w 11 5, b := field w 6 5, p := field w 0 3 }
/-- Reads `OpM`. -/
def opM (w : Code) : OpM :=
  { toGuard := guardOf w, r := field w 16 5, b := field w 11 5, c := field w 7 4, o := field w 0 7 }
/-- Reads `OpSpill`. -/
def opSpill (w : Code) : OpSpill :=
  { toGuard := guardOf w, r := field w 16 5, w := field w 9 7, s := field w 0 9 }
/-- Reads `OpFld`. -/
def opFld (w : Code) : OpFld :=
  { toGuard := guardOf w, d := field w 16 5, b := field w 11 5, c := field w 7 4, t := field w 4 3, u := field w 0 4 }
/-- Reads `OpFld2`. -/
def opFld2 (w : Code) : OpFld2 :=
  { toGuard := guardOf w, d := field w 16 5, b := field w 11 5, c := field w 7 4, t := field w 4 3, u := field w 3 1, s := field w 0 3 }
/-- Reads `OpAmo`. -/
def opAmo (w : Code) : OpAmo :=
  { toGuard := guardOf w, d := field w 16 5, a := field w 11 5, b := field w 6 5, s := field w 4 2, c := field w 0 4 }
/-- Reads `OpFence`. -/
def opFence (w : Code) : OpFence :=
  { toGuard := guardOf w, s := field w 18 3, m := field w 0 16 }
/-- Reads `OpBar`. -/
def opBar (w : Code) : OpBar :=
  { toGuard := guardOf w, i := field w 11 7, a := field w 6 5 }
/-- Reads `OpTok`. -/
def opTok (w : Code) : OpTok :=
  { toGuard := guardOf w, i := field w 11 7 }
/-- Reads `OpTokP`. -/
def opTokP (w : Code) : OpTokP :=
  { toGuard := guardOf w, i := field w 11 7, p := field w 0 3 }
/-- Reads `OpTokA`. -/
def opTokA (w : Code) : OpTokA :=
  { toGuard := guardOf w, i := field w 11 7, a := field w 6 5 }
/-- Reads `OpB`. -/
def opB (w : Code) : OpB :=
  { toGuard := guardOf w, o := field w 0 21 }
/-- Reads `OpLoop`. -/
def opLoop (w : Code) : OpLoop :=
  { toGuard := guardOf w, i := field w 19 2, s := field w 16 3, a := field w 11 5, e := field w 0 11 }
/-- Reads `OpL`. -/
def opL (w : Code) : OpL :=
  { toGuard := guardOf w, l := field w 16 2 }
/-- Reads `OpE`. -/
def opE (w : Code) : OpE :=
  { toGuard := guardOf w, t := field w 15 6, a := field w 10 5, b := field w 5 5 }
/-- Reads `OpDC`. -/
def opDC (w : Code) : OpDC :=
  { toGuard := guardOf w, d := field w 16 5, c := field w 0 11 }
/-- Reads `OpAC`. -/
def opAC (w : Code) : OpAC :=
  { toGuard := guardOf w, a := field w 11 5, c := field w 0 11 }

/-- The scalar words (R36 to R38): by OP, then by the minor code where the group has one. -/
def decodeScalar (w : Code) : Except DecodeErr Instr :=
  match (field w 21 6).toNat with
  | 0x00 =>
    match (field w 0 6).toNat with
    | 0x00 => .ok (.add (opDAB w))
    | 0x01 => .ok (.sub (opDAB w))
    | 0x02 => .ok (.and (opDAB w))
    | 0x03 => .ok (.or (opDAB w))
    | 0x04 => .ok (.xor (opDAB w))
    | 0x05 => .ok (.andn (opDAB w))
    | 0x06 => .ok (.shl (opDAB w))
    | 0x07 => .ok (.shr (opDAB w))
    | 0x08 => .ok (.sar (opDAB w))
    | 0x09 => .ok (.rotl (opDAB w))
    | 0x0A => .ok (.min (opDAB w))
    | 0x0B => .ok (.max (opDAB w))
    | 0x0C => .ok (.minn (opDAB w))
    | 0x0D => .ok (.maxn (opDAB w))
    | 0x0E => .ok (.mul (opDAB w))
    | 0x0F => .ok (.mulh (opDAB w))
    | 0x10 => .ok (.mulhn (opDAB w))
    | 0x11 => .ok (.div (opDAB w))
    | 0x12 => .ok (.divn (opDAB w))
    | 0x13 => .ok (.rem (opDAB w))
    | 0x14 => .ok (.remn (opDAB w))
    | 0x15 => .ok (.clz (opDA w))
    | 0x16 => .ok (.popc (opDA w))
    | 0x17 => .ok (.sxb (opDA w))
    | 0x18 => .ok (.sxh (opDA w))
    | 0x19 => .ok (.sxw (opDA w))
    | 0x1A => .ok (.zxb (opDA w))
    | 0x1B => .ok (.zxh (opDA w))
    | 0x1C => .ok (.zxw (opDA w))
    | 0x1D => .ok (.addw (opDAB w))
    | 0x1E => .ok (.subw (opDAB w))
    | 0x1F => .ok (.mulw (opDAB w))
    | _ => .error .unassignedMinor
  | 0x01 => .ok (.addi (opDAI w))
  | 0x02 => .ok (.andi (opDAI w))
  | 0x03 => .ok (.ori (opDAI w))
  | 0x04 => .ok (.xori (opDAI w))
  | 0x05 => .ok (.shli (opDAS w))
  | 0x06 => .ok (.shri (opDAS w))
  | 0x07 => .ok (.sari (opDAS w))
  | 0x08 => .ok (.li (opDI w))
  | 0x09 => .ok (.lsh (opDI w))
  | 0x0A => if field w 3 3 = 0 then .ok (.cmp (opCmp w)) else .error .unassignedMinor
  | 0x0B => .ok (.cmpi (opCmpi w))
  | 0x0C =>
    match (field w 0 6).toNat with
    | 0x00 => .ok (.pand (opP3 w))
    | 0x01 => .ok (.por (opP3 w))
    | 0x02 => .ok (.pxor (opP3 w))
    | 0x03 => .ok (.pandn (opP3 w))
    | 0x04 => .ok (.pnot (opP2 w))
    | 0x05 => .ok (.pmov (opP2 w))
    | _ => .error .unassignedMinor
  | 0x0D => if field w 3 3 = 0 then .ok (.sel (opSel w)) else .error .unassignedMinor
  | 0x10 => .ok (.ldB (opM w))
  | 0x11 => .ok (.ldBz (opM w))
  | 0x12 => .ok (.ldH (opM w))
  | 0x13 => .ok (.ldHz (opM w))
  | 0x14 => .ok (.ldW (opM w))
  | 0x15 => .ok (.ldWz (opM w))
  | 0x16 => .ok (.ldD (opM w))
  | 0x18 => .ok (.stB (opM w))
  | 0x19 => .ok (.stH (opM w))
  | 0x1A => .ok (.stW (opM w))
  | 0x1B => .ok (.stD (opM w))
  | 0x1C => .ok (.sld (opSpill w))
  | 0x1D => .ok (.sst (opSpill w))
  | 0x1E => .ok (.fld (opFld w))
  | 0x1F => .ok (.fld2 (opFld2 w))
  | 0x20 => .ok (.amoAdd (opAmo w))
  | 0x21 => .ok (.amoAnd (opAmo w))
  | 0x22 => .ok (.amoOr (opAmo w))
  | 0x23 => .ok (.amoXor (opAmo w))
  | 0x24 => .ok (.amoMin (opAmo w))
  | 0x25 => .ok (.amoMax (opAmo w))
  | 0x26 => .ok (.amoSwp (opAmo w))
  | 0x27 => .ok (.amoCas (opAmo w))
  | 0x28 => .ok (.amoMinn (opAmo w))
  | 0x29 => .ok (.amoMaxn (opAmo w))
  | 0x2A => .ok (.fence (opFence w))
  | 0x2B =>
    match (field w 18 3).toNat with
    | 0 => if (field w 11 7).toNat < 96 then .ok (.barInit (opBar w)) else .error .idOutOfRange
    | 1 => if (field w 11 7).toNat < 96 then .ok (.barArr (opBar w)) else .error .idOutOfRange
    | 2 => if (field w 11 7).toNat < 96 then .ok (.barWait (opBar w)) else .error .idOutOfRange
    | 3 => if (field w 11 7).toNat < 96 then .ok (.barAw (opBar w)) else .error .idOutOfRange
    | _ => .error .unassignedMinor
  | 0x2C =>
    match (field w 18 3).toNat with
    | 0 => if (field w 11 7).toNat < 63 then .ok (.tokWait (opTok w)) else .error .idOutOfRange
    | 1 => if (field w 11 7).toNat < 63 then .ok (.tokTest (opTokP w)) else .error .idOutOfRange
    | 2 => if (field w 11 7).toNat < 63 then .ok (.tokSnap (opTokA w)) else .error .idOutOfRange
    | 3 => if (field w 11 7).toNat < 63 then .ok (.tokWaitv (opTokA w)) else .error .idOutOfRange
    | _ => .error .unassignedMinor
  | 0x2D =>
    match (field w 0 6).toNat with
    | 0x00 => .ok (.wmkInit (opAB w))
    | 0x01 => .ok (.wmkWait (opAB w))
    | 0x02 => .ok (.wmkAdd (opAB w))
    | 0x03 => .ok (.wmkGen (opDA w))
    | 0x04 => .ok (.wmkTest (opPAB w))
    | _ => .error .unassignedMinor
  | 0x30 => .ok (.br (opB w))
  | 0x31 => .ok (.call (opB w))
  | 0x32 =>
    match (field w 0 6).toNat with
    | 0x00 => .ok (.jr (opA w))
    | 0x01 => .ok (.jrl (opDA w))
    | _ => .error .unassignedMinor
  | 0x33 => if field w 0 11 = 0 then .error .loopLenZero else .ok (.loop (opLoop w))
  | 0x34 =>
    match (field w 0 6).toNat with
    | 0x00 => .ok (.lexit (opL w))
    | _ => .error .unassignedMinor
  | 0x38 =>
    match (field w 0 5).toNat with
    | 0x00 => .ok (.mload (opE w))
    | 0x01 => .ok (.mswap (opE w))
    | 0x02 => .ok (.mcfg (opE w))
    | 0x03 => .ok (.mgo (opE w))
    | 0x04 => .ok (.mstream (opE w))
    | 0x05 => .ok (.mdrain (opE w))
    | 0x06 => .ok (.mzero (opE w))
    | 0x07 => .ok (.mmode (opE w))
    | _ => .error .unassignedMinor
  | 0x39 =>
    match (field w 0 5).toNat with
    | 0x00 => .ok (.wtab (opE w))
    | 0x01 => .ok (.wstream (opE w))
    | _ => .error .unassignedMinor
  | 0x3A =>
    match (field w 0 5).toNat with
    | 0x00 => .ok (.cpy (opE w))
    | 0x01 => .ok (.cnest (opE w))
    | 0x02 => .ok (.cmc (opE w))
    | 0x03 => .ok (.cacc (opE w))
    | 0x04 => .ok (.cgat (opE w))
    | 0x05 => .ok (.csct (opE w))
    | 0x06 => .ok (.cstage (opE w))
    | _ => .error .unassignedMinor
  | 0x3B =>
    match (field w 0 5).toNat with
    | 0x00 => .ok (.fbind (opE w))
    | 0x01 => .ok (.ftick (opE w))
    | 0x02 => .ok (.walk (opE w))
    | _ => .error .unassignedMinor
  | 0x3C =>
    match (field w 0 6).toNat with
    | 0x00 => .ok (.nop (guardOf w))
    | 0x01 => .ok (.halt (guardOf w))
    | 0x02 => .ok (.trap (opA w))
    | 0x03 => .ok (.eret (guardOf w))
    | 0x04 => .ok (.brk (guardOf w))
    | 0x05 => .ok (.ifence (guardOf w))
    | 0x06 => .ok (.tmark (opA w))
    | 0x07 => .ok (.yield (guardOf w))
    | _ => .error .unassignedMinor
  | 0x3D => .ok (.csrr (opDC w))
  | 0x3E => .ok (.csrw (opAC w))
  | 0x3F =>
    match (field w 0 6).toNat with
    | 0x00 => .ok (.vfence (guardOf w))
    | 0x01 => .ok (.vbusy (opP w))
    | 0x02 => .ok (.vmode (opA w))
    | 0x03 => .ok (.vtake (opD w))
    | _ => .error .unassignedMinor
  | _ => .error .unassignedOp

/-- The vector words (R41, R42). -/
def decodeVector (w : Code) : Except DecodeErr Instr :=
  match VOp.ofCode (field w 24 7) with
  | some op => .ok (op.instr (op.norm
      { d := field w 20 4, a := field w 16 4, b := field w 12 4, p := field w 10 2, s := field w 5 5, t := field w 0 5 }))
  | none => .error .unassignedVop

/-- A word of the instruction stream (R30): bit 31 selects the kind. -/
def decode (w : Code) : Except DecodeErr Instr :=
  if field w 31 1 = 0 then decodeScalar w else decodeVector w

/-- The little-endian word of four bytes (R7, R30). -/
def codeOfBytes (b0 b1 b2 b3 : Byte) : Code := b3 ++ b2 ++ b1 ++ b0

/-- The four bytes of a word, the byte at the lowest address first (R7). -/
def bytesOfCode (w : Code) : List Byte := [field w 0 8, field w 8 8, field w 16 8, field w 24 8]

/-- Decodes the instruction at the head of a byte stream; fewer than four bytes are no word. -/
def decodeBytes : List Byte → Except DecodeErr (Instr × List Byte)
  | b0 :: b1 :: b2 :: b3 :: rest =>
    match decode (codeOfBytes b0 b1 b2 b3) with
    | .ok i => .ok (i, rest)
    | .error e => .error e
  | _ => .error .notAWord

/-- The instruction the decoder reads from an opcode-table row's bits: every word is 32 bits, in little-endian bytes. -/
def decodeTableWord (nbits w : Nat) : Option Instr :=
  if nbits ≤ 32 then
    match decodeBytes (bytesOfCode (BitVec.ofNat 32 w)) with
    | .ok (i, _) => some i
    | .error _ => none
  else none

/-! ### Encoding -/

/-- A scalar word: V = 0, the guard, OP, and the operand bits (R30). -/
def scalarWord (g : Guard) (op : BitVec 6) (x : BitVec 21) : Code :=
  (0 : BitVec 1) ++ g.g ++ g.n ++ op ++ x

/-- A vector word (R41). -/
def vectorWord (op : VOp) (o : OpV) : Code :=
  (1 : BitVec 1) ++ op.code ++ o.d ++ o.a ++ o.b ++ o.p ++ o.s ++ o.t

/-- The word of an instruction; an event has none. Ignored bits are zero (R35). -/
def encode : Instr → Option Code
  | .add o => some (scalarWord o.toGuard 0x00 (o.d ++ o.a ++ o.b ++ (0 : BitVec 6)))
  | .sub o => some (scalarWord o.toGuard 0x00 (o.d ++ o.a ++ o.b ++ (1 : BitVec 6)))
  | .and o => some (scalarWord o.toGuard 0x00 (o.d ++ o.a ++ o.b ++ (2 : BitVec 6)))
  | .or o => some (scalarWord o.toGuard 0x00 (o.d ++ o.a ++ o.b ++ (3 : BitVec 6)))
  | .xor o => some (scalarWord o.toGuard 0x00 (o.d ++ o.a ++ o.b ++ (4 : BitVec 6)))
  | .andn o => some (scalarWord o.toGuard 0x00 (o.d ++ o.a ++ o.b ++ (5 : BitVec 6)))
  | .shl o => some (scalarWord o.toGuard 0x00 (o.d ++ o.a ++ o.b ++ (6 : BitVec 6)))
  | .shr o => some (scalarWord o.toGuard 0x00 (o.d ++ o.a ++ o.b ++ (7 : BitVec 6)))
  | .sar o => some (scalarWord o.toGuard 0x00 (o.d ++ o.a ++ o.b ++ (8 : BitVec 6)))
  | .rotl o => some (scalarWord o.toGuard 0x00 (o.d ++ o.a ++ o.b ++ (9 : BitVec 6)))
  | .min o => some (scalarWord o.toGuard 0x00 (o.d ++ o.a ++ o.b ++ (10 : BitVec 6)))
  | .max o => some (scalarWord o.toGuard 0x00 (o.d ++ o.a ++ o.b ++ (11 : BitVec 6)))
  | .minn o => some (scalarWord o.toGuard 0x00 (o.d ++ o.a ++ o.b ++ (12 : BitVec 6)))
  | .maxn o => some (scalarWord o.toGuard 0x00 (o.d ++ o.a ++ o.b ++ (13 : BitVec 6)))
  | .mul o => some (scalarWord o.toGuard 0x00 (o.d ++ o.a ++ o.b ++ (14 : BitVec 6)))
  | .mulh o => some (scalarWord o.toGuard 0x00 (o.d ++ o.a ++ o.b ++ (15 : BitVec 6)))
  | .mulhn o => some (scalarWord o.toGuard 0x00 (o.d ++ o.a ++ o.b ++ (16 : BitVec 6)))
  | .div o => some (scalarWord o.toGuard 0x00 (o.d ++ o.a ++ o.b ++ (17 : BitVec 6)))
  | .divn o => some (scalarWord o.toGuard 0x00 (o.d ++ o.a ++ o.b ++ (18 : BitVec 6)))
  | .rem o => some (scalarWord o.toGuard 0x00 (o.d ++ o.a ++ o.b ++ (19 : BitVec 6)))
  | .remn o => some (scalarWord o.toGuard 0x00 (o.d ++ o.a ++ o.b ++ (20 : BitVec 6)))
  | .clz o => some (scalarWord o.toGuard 0x00 (o.d ++ o.a ++ (21 : BitVec 11)))
  | .popc o => some (scalarWord o.toGuard 0x00 (o.d ++ o.a ++ (22 : BitVec 11)))
  | .sxb o => some (scalarWord o.toGuard 0x00 (o.d ++ o.a ++ (23 : BitVec 11)))
  | .sxh o => some (scalarWord o.toGuard 0x00 (o.d ++ o.a ++ (24 : BitVec 11)))
  | .sxw o => some (scalarWord o.toGuard 0x00 (o.d ++ o.a ++ (25 : BitVec 11)))
  | .zxb o => some (scalarWord o.toGuard 0x00 (o.d ++ o.a ++ (26 : BitVec 11)))
  | .zxh o => some (scalarWord o.toGuard 0x00 (o.d ++ o.a ++ (27 : BitVec 11)))
  | .zxw o => some (scalarWord o.toGuard 0x00 (o.d ++ o.a ++ (28 : BitVec 11)))
  | .addw o => some (scalarWord o.toGuard 0x00 (o.d ++ o.a ++ o.b ++ (29 : BitVec 6)))
  | .subw o => some (scalarWord o.toGuard 0x00 (o.d ++ o.a ++ o.b ++ (30 : BitVec 6)))
  | .mulw o => some (scalarWord o.toGuard 0x00 (o.d ++ o.a ++ o.b ++ (31 : BitVec 6)))
  | .addi o => some (scalarWord o.toGuard 0x01 (o.d ++ o.a ++ o.i))
  | .andi o => some (scalarWord o.toGuard 0x02 (o.d ++ o.a ++ o.i))
  | .ori o => some (scalarWord o.toGuard 0x03 (o.d ++ o.a ++ o.i))
  | .xori o => some (scalarWord o.toGuard 0x04 (o.d ++ o.a ++ o.i))
  | .shli o => some (scalarWord o.toGuard 0x05 (o.d ++ o.a ++ (0 : BitVec 5) ++ o.i))
  | .shri o => some (scalarWord o.toGuard 0x06 (o.d ++ o.a ++ (0 : BitVec 5) ++ o.i))
  | .sari o => some (scalarWord o.toGuard 0x07 (o.d ++ o.a ++ (0 : BitVec 5) ++ o.i))
  | .li o => some (scalarWord o.toGuard 0x08 (o.d ++ o.i))
  | .lsh o => some (scalarWord o.toGuard 0x09 (o.d ++ o.i))
  | .cmp o => some (scalarWord o.toGuard 0x0A (o.m ++ o.p ++ o.a ++ o.b ++ (0 : BitVec 3) ++ o.c))
  | .cmpi o => some (scalarWord o.toGuard 0x0B (o.p ++ o.c ++ o.a ++ o.i))
  | .pand o => some (scalarWord o.toGuard 0x0C ((0 : BitVec 2) ++ o.d ++ (0 : BitVec 2) ++ o.a ++ (0 : BitVec 2) ++ o.b ++ (0 : BitVec 6)))
  | .por o => some (scalarWord o.toGuard 0x0C ((0 : BitVec 2) ++ o.d ++ (0 : BitVec 2) ++ o.a ++ (0 : BitVec 2) ++ o.b ++ (1 : BitVec 6)))
  | .pxor o => some (scalarWord o.toGuard 0x0C ((0 : BitVec 2) ++ o.d ++ (0 : BitVec 2) ++ o.a ++ (0 : BitVec 2) ++ o.b ++ (2 : BitVec 6)))
  | .pandn o => some (scalarWord o.toGuard 0x0C ((0 : BitVec 2) ++ o.d ++ (0 : BitVec 2) ++ o.a ++ (0 : BitVec 2) ++ o.b ++ (3 : BitVec 6)))
  | .pnot o => some (scalarWord o.toGuard 0x0C ((0 : BitVec 2) ++ o.d ++ (0 : BitVec 2) ++ o.a ++ (4 : BitVec 11)))
  | .pmov o => some (scalarWord o.toGuard 0x0C ((0 : BitVec 2) ++ o.d ++ (0 : BitVec 2) ++ o.a ++ (5 : BitVec 11)))
  | .sel o => some (scalarWord o.toGuard 0x0D (o.d ++ o.a ++ o.b ++ (0 : BitVec 3) ++ o.p))
  | .ldB o => some (scalarWord o.toGuard 0x10 (o.r ++ o.b ++ o.c ++ o.o))
  | .ldBz o => some (scalarWord o.toGuard 0x11 (o.r ++ o.b ++ o.c ++ o.o))
  | .ldH o => some (scalarWord o.toGuard 0x12 (o.r ++ o.b ++ o.c ++ o.o))
  | .ldHz o => some (scalarWord o.toGuard 0x13 (o.r ++ o.b ++ o.c ++ o.o))
  | .ldW o => some (scalarWord o.toGuard 0x14 (o.r ++ o.b ++ o.c ++ o.o))
  | .ldWz o => some (scalarWord o.toGuard 0x15 (o.r ++ o.b ++ o.c ++ o.o))
  | .ldD o => some (scalarWord o.toGuard 0x16 (o.r ++ o.b ++ o.c ++ o.o))
  | .stB o => some (scalarWord o.toGuard 0x18 (o.r ++ o.b ++ o.c ++ o.o))
  | .stH o => some (scalarWord o.toGuard 0x19 (o.r ++ o.b ++ o.c ++ o.o))
  | .stW o => some (scalarWord o.toGuard 0x1A (o.r ++ o.b ++ o.c ++ o.o))
  | .stD o => some (scalarWord o.toGuard 0x1B (o.r ++ o.b ++ o.c ++ o.o))
  | .sld o => some (scalarWord o.toGuard 0x1C (o.r ++ o.w ++ o.s))
  | .sst o => some (scalarWord o.toGuard 0x1D (o.r ++ o.w ++ o.s))
  | .fld o => some (scalarWord o.toGuard 0x1E (o.d ++ o.b ++ o.c ++ o.t ++ o.u))
  | .fld2 o => some (scalarWord o.toGuard 0x1F (o.d ++ o.b ++ o.c ++ o.t ++ o.u ++ o.s))
  | .amoAdd o => some (scalarWord o.toGuard 0x20 (o.d ++ o.a ++ o.b ++ o.s ++ o.c))
  | .amoAnd o => some (scalarWord o.toGuard 0x21 (o.d ++ o.a ++ o.b ++ o.s ++ o.c))
  | .amoOr o => some (scalarWord o.toGuard 0x22 (o.d ++ o.a ++ o.b ++ o.s ++ o.c))
  | .amoXor o => some (scalarWord o.toGuard 0x23 (o.d ++ o.a ++ o.b ++ o.s ++ o.c))
  | .amoMin o => some (scalarWord o.toGuard 0x24 (o.d ++ o.a ++ o.b ++ o.s ++ o.c))
  | .amoMax o => some (scalarWord o.toGuard 0x25 (o.d ++ o.a ++ o.b ++ o.s ++ o.c))
  | .amoSwp o => some (scalarWord o.toGuard 0x26 (o.d ++ o.a ++ o.b ++ o.s ++ o.c))
  | .amoCas o => some (scalarWord o.toGuard 0x27 (o.d ++ o.a ++ o.b ++ o.s ++ o.c))
  | .amoMinn o => some (scalarWord o.toGuard 0x28 (o.d ++ o.a ++ o.b ++ o.s ++ o.c))
  | .amoMaxn o => some (scalarWord o.toGuard 0x29 (o.d ++ o.a ++ o.b ++ o.s ++ o.c))
  | .fence o => some (scalarWord o.toGuard 0x2A (o.s ++ (0 : BitVec 2) ++ o.m))
  | .barInit o => some (scalarWord o.toGuard 0x2B ((0 : BitVec 3) ++ o.i ++ o.a ++ (0 : BitVec 6)))
  | .barArr o => some (scalarWord o.toGuard 0x2B ((1 : BitVec 3) ++ o.i ++ o.a ++ (0 : BitVec 6)))
  | .barWait o => some (scalarWord o.toGuard 0x2B ((2 : BitVec 3) ++ o.i ++ o.a ++ (0 : BitVec 6)))
  | .barAw o => some (scalarWord o.toGuard 0x2B ((3 : BitVec 3) ++ o.i ++ o.a ++ (0 : BitVec 6)))
  | .tokWait o => some (scalarWord o.toGuard 0x2C ((0 : BitVec 3) ++ o.i ++ (0 : BitVec 11)))
  | .tokTest o => some (scalarWord o.toGuard 0x2C ((1 : BitVec 3) ++ o.i ++ (0 : BitVec 8) ++ o.p))
  | .tokSnap o => some (scalarWord o.toGuard 0x2C ((2 : BitVec 3) ++ o.i ++ o.a ++ (0 : BitVec 6)))
  | .tokWaitv o => some (scalarWord o.toGuard 0x2C ((3 : BitVec 3) ++ o.i ++ o.a ++ (0 : BitVec 6)))
  | .wmkInit o => some (scalarWord o.toGuard 0x2D ((0 : BitVec 5) ++ o.a ++ o.b ++ (0 : BitVec 6)))
  | .wmkWait o => some (scalarWord o.toGuard 0x2D ((0 : BitVec 5) ++ o.a ++ o.b ++ (1 : BitVec 6)))
  | .wmkAdd o => some (scalarWord o.toGuard 0x2D ((0 : BitVec 5) ++ o.a ++ o.b ++ (2 : BitVec 6)))
  | .wmkGen o => some (scalarWord o.toGuard 0x2D (o.d ++ o.a ++ (3 : BitVec 11)))
  | .wmkTest o => some (scalarWord o.toGuard 0x2D ((0 : BitVec 2) ++ o.p ++ o.a ++ o.b ++ (4 : BitVec 6)))
  | .br o => some (scalarWord o.toGuard 0x30 (o.o))
  | .call o => some (scalarWord o.toGuard 0x31 (o.o))
  | .jr o => some (scalarWord o.toGuard 0x32 ((0 : BitVec 5) ++ o.a ++ (0 : BitVec 11)))
  | .jrl o => some (scalarWord o.toGuard 0x32 (o.d ++ o.a ++ (1 : BitVec 11)))
  | .loop o => some (scalarWord o.toGuard 0x33 (o.i ++ o.s ++ o.a ++ o.e))
  | .lexit o => some (scalarWord o.toGuard 0x34 ((0 : BitVec 3) ++ o.l ++ (0 : BitVec 16)))
  | .mload o => some (scalarWord o.toGuard 0x38 (o.t ++ o.a ++ o.b ++ (0 : BitVec 5)))
  | .mswap o => some (scalarWord o.toGuard 0x38 (o.t ++ o.a ++ o.b ++ (1 : BitVec 5)))
  | .mcfg o => some (scalarWord o.toGuard 0x38 (o.t ++ o.a ++ o.b ++ (2 : BitVec 5)))
  | .mgo o => some (scalarWord o.toGuard 0x38 (o.t ++ o.a ++ o.b ++ (3 : BitVec 5)))
  | .mstream o => some (scalarWord o.toGuard 0x38 (o.t ++ o.a ++ o.b ++ (4 : BitVec 5)))
  | .mdrain o => some (scalarWord o.toGuard 0x38 (o.t ++ o.a ++ o.b ++ (5 : BitVec 5)))
  | .mzero o => some (scalarWord o.toGuard 0x38 (o.t ++ o.a ++ o.b ++ (6 : BitVec 5)))
  | .mmode o => some (scalarWord o.toGuard 0x38 (o.t ++ o.a ++ o.b ++ (7 : BitVec 5)))
  | .wtab o => some (scalarWord o.toGuard 0x39 (o.t ++ o.a ++ o.b ++ (0 : BitVec 5)))
  | .wstream o => some (scalarWord o.toGuard 0x39 (o.t ++ o.a ++ o.b ++ (1 : BitVec 5)))
  | .cpy o => some (scalarWord o.toGuard 0x3A (o.t ++ o.a ++ o.b ++ (0 : BitVec 5)))
  | .cnest o => some (scalarWord o.toGuard 0x3A (o.t ++ o.a ++ o.b ++ (1 : BitVec 5)))
  | .cmc o => some (scalarWord o.toGuard 0x3A (o.t ++ o.a ++ o.b ++ (2 : BitVec 5)))
  | .cacc o => some (scalarWord o.toGuard 0x3A (o.t ++ o.a ++ o.b ++ (3 : BitVec 5)))
  | .cgat o => some (scalarWord o.toGuard 0x3A (o.t ++ o.a ++ o.b ++ (4 : BitVec 5)))
  | .csct o => some (scalarWord o.toGuard 0x3A (o.t ++ o.a ++ o.b ++ (5 : BitVec 5)))
  | .cstage o => some (scalarWord o.toGuard 0x3A (o.t ++ o.a ++ o.b ++ (6 : BitVec 5)))
  | .fbind o => some (scalarWord o.toGuard 0x3B (o.t ++ o.a ++ o.b ++ (0 : BitVec 5)))
  | .ftick o => some (scalarWord o.toGuard 0x3B (o.t ++ o.a ++ o.b ++ (1 : BitVec 5)))
  | .walk o => some (scalarWord o.toGuard 0x3B (o.t ++ o.a ++ o.b ++ (2 : BitVec 5)))
  | .nop o => some (scalarWord o 0x3C ((0 : BitVec 21)))
  | .halt o => some (scalarWord o 0x3C ((1 : BitVec 21)))
  | .trap o => some (scalarWord o.toGuard 0x3C ((0 : BitVec 5) ++ o.a ++ (2 : BitVec 11)))
  | .eret o => some (scalarWord o 0x3C ((3 : BitVec 21)))
  | .brk o => some (scalarWord o 0x3C ((4 : BitVec 21)))
  | .ifence o => some (scalarWord o 0x3C ((5 : BitVec 21)))
  | .tmark o => some (scalarWord o.toGuard 0x3C ((0 : BitVec 5) ++ o.a ++ (6 : BitVec 11)))
  | .yield o => some (scalarWord o 0x3C ((7 : BitVec 21)))
  | .csrr o => some (scalarWord o.toGuard 0x3D (o.d ++ (0 : BitVec 5) ++ o.c))
  | .csrw o => some (scalarWord o.toGuard 0x3E ((0 : BitVec 5) ++ o.a ++ o.c))
  | .vfence o => some (scalarWord o 0x3F ((0 : BitVec 21)))
  | .vbusy o => some (scalarWord o.toGuard 0x3F ((0 : BitVec 2) ++ o.p ++ (1 : BitVec 16)))
  | .vmode o => some (scalarWord o.toGuard 0x3F ((0 : BitVec 5) ++ o.a ++ (2 : BitVec 11)))
  | .vtake o => some (scalarWord o.toGuard 0x3F (o.d ++ (3 : BitVec 16)))
  | .vadd o => some (vectorWord .vadd o)
  | .vsub o => some (vectorWord .vsub o)
  | .vmul o => some (vectorWord .vmul o)
  | .vfma o => some (vectorWord .vfma o)
  | .vfms o => some (vectorWord .vfms o)
  | .vmin o => some (vectorWord .vmin o)
  | .vmax o => some (vectorWord .vmax o)
  | .vabs o => some (vectorWord .vabs o)
  | .vneg o => some (vectorWord .vneg o)
  | .vadds o => some (vectorWord .vadds o)
  | .vmuls o => some (vectorWord .vmuls o)
  | .vfmas o => some (vectorWord .vfmas o)
  | .vrcp o => some (vectorWord .vrcp o)
  | .vrsq o => some (vectorWord .vrsq o)
  | .vexp2 o => some (vectorWord .vexp2 o)
  | .vlog2 o => some (vectorWord .vlog2 o)
  | .viadd o => some (vectorWord .viadd o)
  | .visub o => some (vectorWord .visub o)
  | .vimul o => some (vectorWord .vimul o)
  | .vand o => some (vectorWord .vand o)
  | .vor o => some (vectorWord .vor o)
  | .vxor o => some (vectorWord .vxor o)
  | .vshl o => some (vectorWord .vshl o)
  | .vshr o => some (vectorWord .vshr o)
  | .vsar o => some (vectorWord .vsar o)
  | .vimin o => some (vectorWord .vimin o)
  | .vimax o => some (vectorWord .vimax o)
  | .viadds o => some (vectorWord .viadds o)
  | .vcmp o => some (vectorWord .vcmp o)
  | .vcmps o => some (vectorWord .vcmps o)
  | .vsel o => some (vectorWord .vsel o)
  | .vmov o => some (vectorWord .vmov o)
  | .vbcs o => some (vectorWord .vbcs o)
  | .viota o => some (vectorWord .viota o)
  | .kop o => some (vectorWord .kop o)
  | .kpop o => some (vectorWord .kpop o)
  | .vget o => some (vectorWord .vget o)
  | .vrotr o => some (vectorWord .vrotr o)
  | .vrotc o => some (vectorWord .vrotc o)
  | .vbcr o => some (vectorWord .vbcr o)
  | .vbcc o => some (vectorWord .vbcc o)
  | .vredr o => some (vectorWord .vredr o)
  | .vredc o => some (vectorWord .vredc o)
  | .vshuf o => some (vectorWord .vshuf o)
  | .vcvt o => some (vectorWord .vcvt o)
  | .vpack o => some (vectorWord .vpack o)
  | .vunpk o => some (vectorWord .vunpk o)
  | .vfix o => some (vectorWord .vfix o)
  | .vflt o => some (vectorWord .vflt o)
  | .vld o => some (vectorWord .vld o)
  | .vst o => some (vectorWord .vst o)
  | .vldb o => some (vectorWord .vldb o)
  | .vstadd o => some (vectorWord .vstadd o)
  | .vzero o => some (vectorWord .vzero o)
  | .loadQueueData _ _ _ => none
  | .storePerform _ _ _ => none
  | .coreIdle _ => none
  | .engineCommandStart _ _ => none
  | .engineCommandComplete _ _ _ => none
  | .wave _ => none
  | .waymarkArrival _ _ _ => none
  | .parking _ _ => none
  | .tileDrain _ _ => none
  | .deposit _ _ _ => none
  | .seal _ => none
  | .retrainBegin _ _ => none
  | .retrainEnd _ _ _ => none
  | .rebuilt _ _ => none
  | .admission _ => none
  | .taskStart _ => none
  | .retirement _ _ => none
  | .completionEntry _ => none
  | .hang _ _ => none
  | .preemption _ => none
  | .swap _ => none
  | .taskResume _ _ => none
  | .trapEntry _ => none
  | .debugStop _ => none
  | .prqReq _ _ => none
  | .haltreq _ => none
  | .resume _ => none
  | .claim _ _ => none
  | .ctxctlEmpty _ => none
  | .ctxctlLoaded _ => none
  | .sealing _ => none
  | .frzThaw _ => none
  | .cownWrite _ _ _ => none
  | .tlbinvGo _ => none
  | .invalidationComplete _ => none
  | .sinkEnable _ => none
  | .sync _ => none
  | .sample _ => none
  | .drop _ => none
  | .stall _ _ _ => none
  | .cqEnable _ => none
  | .cqtailWrite _ _ => none
  | .devevtRead => none
  | .pctlClr _ => none
  | .offer _ => none
  | .accept _ _ => none
  | .revoke _ _ => none
  | .release _ _ => none
  | .clear _ => none
  | .deadline _ => none
  | .leaseAccess _ _ _ _ => none
  | .exportAccess _ _ _ _ => none
  | .hostMemRead _ _ => none
  | .hostMemWrite _ _ => none
  | .trip _ _ _ => none
  | .deviceReset _ _ => none
  | .computeRelease => none
  | .lcreq _ => none
  | .mwipe _ => none
  | .wipeComplete => none
  | .shactlInit => none
  | .shactlFinal => none
  | .shain _ => none
  | .ecctlGo => none
  | .verifyComplete => none
  | .kwipe _ => none
  | .amext _ => none
  | .dport _ => none
  | .rng _ => none
  | .mailboxWrite _ _ => none
  | .registerWrite _ _ => none
  | .governorSlowing _ _ _ => none
  | .lenderWipeComplete _ => none
  | .spdmRequest _ => none

/-- The table's mnemonic is that of a word: an instruction with an encoding. -/
def Instr.isWord (i : Instr) : Bool := (encode i).isSome

end Sys2Proof
end

