-- ==== Sys2Proof/Config.lean ====
section
/-!
DEFINITION. Config: what one package fixes and the spec leaves open, and the free values. A free value is an opaque
constant: nothing can be proved of it but its type. `State.free` counts the draws, so each draw is a fresh value.
-/

namespace Sys2Proof.Config

/-- FREE: an element the spec calls unspecified (R21, R22, R303). -/
opaque freeElem : Nat → Elem
/-- FREE: which of two values an element written twice holds (R22). -/
opaque freeBit : Nat → Bool
/-- FREE: a byte the spec calls unspecified (R248, R251, R283). -/
opaque freeByte : Nat → Byte
/-- FREE: an accumulator element left unspecified by an uncorrectable error (R283). -/
opaque freeAcc : Nat → Elem
/-- FREE: 64 random bits, for RNG and NONCE (R358, R364), and the fields of records and registers that no rule states. -/
opaque freeWord : Nat → Word
/-- FREE: bytes of the opaque areas of a context image (R314), by the image's serial number and offset. -/
opaque opaqueArea : Nat → Nat → Byte
/-- FREE: a doubleword that a peer package answers a read or atomic with (R343). -/
opaque peerWord : Nat → Word
/-- FREE: whether a peer refuses a request (R344): 0 served, else the cause's code. -/
opaque peerRefusal : Nat → BitVec 8
/-- FREE: whether an export entry of another package maps a filter window (R343), by the entry's address and the draw. -/
opaque peerWindow : Nat → Nat → Bool
/-- FREE: whether a route reaches another package (R343). -/
opaque routeTo : Nat → BitVec 10 → Bool
/-- FREE: a lender's answer to an ACCEPT (R347): 0 accepted, else REASON 2, 3 or 4 less one. -/
opaque leaseAnswer : Nat → BitVec 2
/-- FREE: the answer to an SPDM request (R361; the message bytes are those of DMTF SPDM 1.3). -/
opaque spdmAnswer : Nat → List Byte → List Byte

/-- Fuses (R358): the device identifier, low doubleword first. The value is the package's own. -/
opaque devId : Word × Word
/-- Fuses (R358): the hash of the unlock public key, as 64 bytes. -/
opaque ukHash : Nat → Byte
/-- Fuses (R354): the hash of the firmware key, as 64 bytes. -/
opaque fwHash : Nat → Byte
/-- FREE: the private part of the device identity key that the TRNG generated as the given draw (R361). -/
opaque identityKey : Nat → List Byte

/-- Usable HBM (R184, R187): 360 GiB. -/
def hbmBytes : Nat := 0x5A00000000
/-- HBM of one stack (R187): 45 GiB. -/
def stackBytes : Nat := 0xB40000000
/-- Bytes of one spine bank (R188). -/
def bankBytes : Nat := 0x200000
/-- Bytes of one scratchpad (R163): offsets 0 to 0xB_FFFF. -/
def spadBytes : Nat := 0xC0000
/-- The colophon's number in the core table: one past the 640 cores (R16, R358). -/
def colophon : Nat := 640
/-- Stack-unit activity budget at full capacity (R201): never below 1,024 units. -/
def budgetFull : Nat := 1024

end Sys2Proof.Config
end

