-- ==== Sys2Proof/Machine/State.lean ====
section
/-!
DEFINITION. State: everything the spec gives one SZ940 package, as plain data. 640 cores with their two contexts, their
engines and accumulator stores; the colophon; the 16 partitions and their tasks; the memories; the stacks; the host and
peer interfaces. `State.reset` is the package right after the start-up sequence (R354), every memory wiped (R357).
-/

namespace Sys2Proof.Machine

/-! ### Registers of a core -/

/-- The product that a package is built into (R3). -/
inductive Product | pk | ml | ma
  deriving DecidableEq, Repr, Inhabited

/-- The module rating in watts (R3, R352). -/
def Product.rating : Product → Nat
  | .pk | .ml => 1800
  | .ma => 1400

/-- MODE (R15). -/
inductive Mode | task | system
  deriving DecidableEq, Repr, Inhabited

/-- The VU's rounding modes (R84). -/
inductive Round | rne | rz | ru | rd
  deriving DecidableEq, Repr, Inhabited

/-- The drain roundings (R265, R281). -/
inductive DrainRound | nearest | rz | ra
  deriving DecidableEq, Repr, Inhabited

/-- The trap causes (R293). -/
inductive Cause
  | illegal | priv | align | xmiss | xperm | window | filter | memerr | token | barrier | lease | engine | brk | watch
  | trapi | preempt | stop | loop
  deriving DecidableEq, Repr

/-- The loop fields of a record, taken at the word, hand-over or issue that it concerns (R321). -/
structure LoopTag where
  lid : BitVec 2
  iter : BitVec 14
  stg : BitVec 3
  deriving DecidableEq, Repr

/-- A trap to be entered (R294): its cause, the queue it is charged to, TINFO and TADDR, and the loop fields of the word or entry that
it is charged to. TPC is the PC at its entry. -/
structure TrapInfo where
  cause : Cause
  q : BitVec 3 := 0
  tinfo : Word := 0
  taddr : Word := 0
  tag : Option LoopTag := none
  deriving DecidableEq, Repr

/-- A vector register: element (r, c) at index 64·r + c (R10, R113). -/
abbrev VReg := Vector Elem 1024
/-- A mask register: bit c of row r (R113). -/
abbrev MReg := Vector (BitVec 64) 16

/-- A loop engine (R66 to R72, R314): the fields of LSTATn, the body bounds, the exit request, the drain of R309, and whether iteration 0 starts at the resume. -/
structure Loop where
  act : Bool
  stg : BitVec 3
  iter : BitVec 29
  count : BitVec 28
  start : BitVec 48
  len : BitVec 11
  exit : Bool
  drain : Option Nat
  refill : Bool
  deriving DecidableEq, Repr, Inhabited

/-- An idle loop engine. -/
def Loop.idle : Loop := ⟨false, 0, 0, 0, 0, 0, false, none, false⟩

/-- A word whose bound runs over a register or mask (R21, R22): the slot at which the bound has passed, and the elements it wrote. -/
structure Writer where
  due : Nat
  wrote : MReg
  deriving DecidableEq, Repr, Inhabited

/-- The undefined window of a vector register or mask (R21, R22): the slot at which its latest bound has passed, and the words whose
bounds run. -/
structure Win where
  due : Nat
  by_ : List Writer
  deriving DecidableEq, Repr, Inhabited

/-- No window. -/
def Win.none : Win := ⟨0, []⟩

/-! ### Accesses -/

/-- Where an access goes after the checks of R182: a byte of `State.mem`, a filter window word, an MMIO register, a peer
package, or leased memory. -/
inductive Place
  | mem (key : Nat)
  | window (va : Nat) (key : Nat)
  | mmio (va : Nat)
  | peer (va : Nat)
  | lease (e off : Nat)
  deriving DecidableEq, Repr

/-- One single-copy atomic piece of an access (R229): a scalar access has one, a vector word one per element. -/
structure Piece where
  va : Word
  place : Place
  n : Nat
  en : Bool
  data : Word
  done : Bool
  deriving DecidableEq, Repr

/-- What a queued store does at its home. -/
inductive StKind
  | plain
  | add (fp : Bool)
  | red (op : BitVec 4) (x : Word)
  deriving DecidableEq, Repr

/-- A store-queue entry (R26). `fenced` holds the classes of fences that completed after it left the core (R193); `scope` is the
scope of an atomic without a destination, whose fences order as R191 says; `tag` is the loop fields of its word (R321). -/
structure SEntry where
  seq : Nat
  cls : BitVec 4
  kind : StKind
  pieces : List Piece
  ready : Bool
  fenced : BitVec 16
  scope : Option (BitVec 3)
  tag : LoopTag
  deriving DecidableEq, Repr

/-- A load-queue entry (R26, R135, R136). -/
structure LEntry where
  num : Nat
  seq : Nat
  cls : BitVec 4
  pieces : List Piece
  fenced : BitVec 16
  fault : Option TrapInfo
  dropped : Bool
  tag : LoopTag
  deriving DecidableEq, Repr

/-! ### The vector unit -/

/-- An entry of the VU's instruction queue (R18): a vector word with its captured g values, or a mode entry (R142). -/
structure VEntry where
  num : Nat
  op : Option VOp
  f : OpV
  gs : Word
  gt : Word
  load : Option Nat
  store : Option Nat
  dropped : Bool
  tag : LoopTag
  deriving DecidableEq, Repr

/-- The vector unit of a core (R10, R18, R19, R126, R142). -/
structure Vu where
  v : Vector VReg 16
  k : Vector MReg 8
  vwin : Vector Win 16
  kwin : Vector Win 8
  rm : Round
  queue : List VEntry
  num : Nat
  slot : Nat
  fifo : List Elem
  deriving DecidableEq, Repr, Inhabited

/-! ### Engines -/

/-- A weight plane (R265): the tile record as read (R267, R268) with its format fields. -/
structure Plane where
  valid : Bool
  fmt : BitVec 4
  sc : Bool
  sp : Bool
  n : BitVec 8
  bytes : Array Byte
  deriving DecidableEq, Repr, Inhabited

/-- An invalid plane (R265). -/
def Plane.none : Plane := ⟨false, 0, false, false, 0, #[]⟩

/-- The matrix engine's settings and planes (R265). -/
structure Me where
  active : Plane
  shadow : Plane
  c : Vector (BitVec 16) 6
  ast : Vector Word 6
  rst : Vector (BitVec 12) 6
  rm : DrainRound
  satf : Bool
  deriving DecidableEq, Repr, Inhabited

/-- The state of an issued engine command (R240, R284, R298); a faulted one keeps the trap that it raised (R296). -/
inductive CmdSt
  | queued | running | kept
  | faulted (t : TrapInfo)
  deriving DecidableEq, Repr

/-- The state of a walk (R204): levels or steps done and the pointer reached. -/
structure Walk where
  level : Nat
  steps : Nat
  ptr : Word
  started : Bool
  status : Option (BitVec 4)
  deriving DecidableEq, Repr

/-- Progress of a started command: its latched descriptor or nest, its position, the words written, data read ahead, the
bytes whose waymark arrival was applied, the rows a mask selects (or a drain's rows with errors), the lay-by slot, the walk, and
`status`: set once the start checks have passed, for a BANK command its CODE and REASON once they stand. -/
structure Run where
  desc : List Byte
  c : List Nat
  ast : List Word
  rst : List Int
  rm : DrainRound
  satf : Bool
  pos : Nat
  done : List Nat
  buf : List (Nat × Byte)
  arrived : Nat
  rows : List Nat
  parked : Option Nat
  children : List (BitVec 3 × Word)
  walk : Walk
  status : Option (BitVec 3 × BitVec 4)
  deriving DecidableEq, Repr

/-- No progress. -/
def Run.fresh : Run :=
  ⟨[], [], [], [], .nearest, false, 0, [], [], 0, [], none, [], ⟨0, 0, 0, false, none⟩, none⟩

/-- An issued engine command (R239): its number in the queue, operands, consumed snapshots, place among the producers of its
token, transfer identifier and channel (R245). `sched` marks a copy released by a schedule (R258). -/
structure Cmd where
  num : Nat
  op : EngOp
  tp : BitVec 6
  a : Word
  b : Word
  snaps : List (BitVec 6 × BitVec 16)
  place : BitVec 16
  st : CmdSt
  chan : BitVec 3
  xid : Word
  sched : Option Nat
  tag : LoopTag
  run : Run
  deriving DecidableEq, Repr

/-- One engine queue: commands issued and not started, commands started and not completed, released schedule copies not yet
handed to their channel, and the number of the next command (R298). -/
structure Eng where
  queue : List Cmd
  run : List Cmd
  released : List Cmd
  next : Nat
  deriving DecidableEq, Repr, Inhabited

/-- An empty engine queue. -/
def Eng.empty : Eng := ⟨[], [], [], 0⟩

/-- A token slot (R241): ISS, DONE, and the places completed beyond the complete prefix. -/
structure Tok where
  iss : BitVec 16
  dn : BitVec 16
  ahead : List (BitVec 16)
  deriving DecidableEq, Repr, Inhabited

/-- A bound barrier of a core (R178): the sub-rectangle word, the arrival phase, and the phase a stopped `bar.aw` still
waits for (R179). -/
structure BarBind where
  b : BitVec 7
  rect : BitVec 15
  ph : Nat
  owes : Option Nat
  deriving DecidableEq, Repr

/-- A filter slot (R209, R217): the WIN of its region and the fields of FSTATn. -/
structure FSlot where
  bound : Option Word
  code : BitVec 3
  reason : BitVec 4
  sat : Bool
  ovf : Bool
  deriving DecidableEq, Repr, Inhabited

/-- A stage of a copy schedule (R258): REPEAT, DSRC, DDST, and the descriptors of its entries. -/
structure Stage where
  rep : Nat
  dsrc : Nat
  ddst : Nat
  copies : List (List Byte)
  deriving DecidableEq, Repr

/-! ### Contexts and cores -/

/-- A register context (R311). `tentry` is TIME at the last trap entry (R305), `tseq` the next store's number then (R303),
`words` the words completed since task start (R298), `sched` the units of the schedule `plan` that have been released (R258). -/
structure Ctx where
  pc : BitVec 48
  mode : Mode
  g : Vector Word 32
  p : BitVec 8
  spill : Vector Word 512
  loops : Vector Loop 4
  order : List (BitVec 2)
  args : Word
  tcb : Word
  warn : BitVec 8
  vufl : BitVec 7
  tcause : Word
  tpc : Word
  tinfo : Word
  taddr : Word
  tvec : Word
  tsave : Word
  cut : Vector Word 7
  tentry : Nat
  tseq : Nat
  words : Nat
  vu : Vu
  sq : List SEntry
  lq : List LEntry
  loads : Nat
  seq : Nat
  tok : Vector Tok 63
  bars : List BarBind
  fslots : Vector FSlot 16
  me : Me
  ctab : Option (List Byte)
  engMe : Eng
  engWs : Eng
  engCe : Eng
  engBank : Eng
  ceid : Vector Word 8
  mp : Vector Word 8
  mpAhead : List (BitVec 3 × Word)
  sched : Nat
  plan : Option (List Stage)
  deriving DecidableEq, Repr, Inhabited

/-- FREE: the opaque parts of a context whose opaque areas were altered (R314). -/
opaque Config.freeContext : Nat → Ctx

/-- Where a context sits (R16, R173): partition, record address, virtual position, rectangle, priority and NEEDS. -/
structure Seat where
  part : BitVec 4
  tcb : Word
  vx : Nat
  vy : Nat
  lw : Nat
  lh : Nat
  prio : BitVec 2
  needs : Word
  deriving DecidableEq, Repr

/-- What a core does with its running context: none, executing, the waits of a TASK-mode halt (R75), halted. -/
inductive Phase | free | running | halting | halted
  deriving DecidableEq, Repr

/-- An internal memory that holds an uncorrectable error (R306). -/
inductive Bad
  | g (n : Nat) | p | spill (n : Nat) | loops | tok (n : Nat) | bars | v (n : Nat) | k (n : Nat) | shadow
  deriving DecidableEq, Repr

/-- STATE of CTXCTL (R314). -/
inductive ShadowSt | empty | held | loaded
  deriving DecidableEq, Repr

/-- The shadow context storage (R311, R314, R316): the context, its seat and phase, the serial number of its opaque areas,
the bytes software wrote through the window, the sealed copy that a read of offset 0 made, and the errors that its memories hold
(R306). -/
structure Shadow where
  st : ShadowSt
  ctx : Option Ctx
  seat : Seat
  phase : Phase
  serial : Nat
  wrote : List (Nat × Byte)
  sealView : Bool
  sealErr : Bool
  sealedImage : List Byte
  bad : List Bad
  deriving DecidableEq, Repr

/-- DBGCTL and the state of a debug stop (R329 to R332): completions held while stopped, the serial number of the opaque areas
that the debug window shows. -/
structure Dbg where
  claim : Bool
  step : Bool
  stopped : Bool
  reason : BitVec 4
  which : BitVec 2
  want : Option (BitVec 4 × BitVec 2)
  armed : Bool
  atIter : Bool
  heldTok : List (BitVec 6 × BitVec 16)
  heldMp : List (BitVec 3 × Word)
  serial : Nat
  deriving DecidableEq, Repr

/-- Profiling counters (R333 to R335), 48 bits each. -/
structure Prof where
  en : Bool
  cls : Vector (BitVec 48) 28
  tok : Vector (BitVec 48) 63
  bar : Vector (BitVec 48) 96
  wmk : Vector (BitVec 48) 32
  deriving DecidableEq, Repr

/-- A scalar load, tap read or `amo` with a destination that is under way while the sequencer runs on (R25, R230): its instruction, the
number of the next store when it began, its class, place, address and size, its scope, the registers that it read, the classes of the fences
that completed while it was under way to a home outside their scope (R193), and its loop fields. -/
structure Late where
  i : Instr
  seq : Nat
  cls : BitVec 4
  place : Place
  ea : Word
  n : Nat
  sc : Nat
  b : Word
  x : Word
  fenced : BitVec 16
  tag : LoopTag
  deriving DecidableEq, Repr

/-- One core (R9), or the colophon (R358). `late` holds the reads that are under way, the oldest first. `tbuf` holds the records that wait for a lossless sink, `tstall` the units that stand
for want of room, each with TIME since when (R326). -/
structure Core where
  ctx : Ctx
  seat : Seat
  phase : Phase
  stalled : Bool
  trap : Option TrapInfo
  preempt : Bool
  shadow : Shadow
  late : List Late
  mefl : BitVec 5
  prqReq : Bool
  prqSched : Bool
  stop : Bool
  bpa : Vector Word 4
  wpa : Vector Word 4
  dbg : Dbg
  acc : Vector (Vector Elem 128) 1024
  accBad : List Nat
  bad : List Bad
  icache : List (Nat × List Byte)
  prof : Prof
  tbuf : List (TrUnit × Nat × BitVec 128)
  tstall : List (TrUnit × Nat)
  deriving DecidableEq, Repr

/-! ### Partitions and tasks -/

/-- The status of a task (R168, R170). -/
inductive TaskSt | new | waiting | ready | running | suspended | done | faulted | cancelled | rejected
  deriving DecidableEq, Repr

/-- A barrier instance (R178): O, cur and nxt of one barrier and sub-rectangle. -/
structure BarInst where
  b : BitVec 7
  rect : BitVec 15
  o : Nat
  cur : Nat
  nxt : Nat
  deriving DecidableEq, Repr

/-- An admitted, unretired task (R167 to R176). `tcb` is the record's virtual address; `x`, `y` its origin while placed;
`cause` the cause of the first failed device access (R366), `claim` the origin that a pre-emption reserved for it (R307). -/
structure Task where
  tcb : Word
  st : TaskSt
  prio : BitVec 2
  lw : Nat
  lh : Nat
  fixed : Bool
  list : Bool
  x : Nat
  y : Nat
  needs : Word
  entry : Word
  args : Word
  budget : Nat
  ran : Nat
  hung : Bool
  faultp : Word
  schedp : Word
  spimg : Word
  age : Nat
  bypass : Nat
  fault : Bool
  bars : List BarInst
  cause : BitVec 7
  recfail : Bool
  claim : Option (Nat × Nat)
  deriving DecidableEq, Repr

/-- A trace sink (R324): partition sinks 0 to 15 and the system sink 16. `lost` counts drops not yet
reported, `wait` holds records whose home must wait (R197, R200) or, in a lossless sink, SYNC records that want room, `sync` TIME of each
wrap of TIME[39:0] whose SYNC is still to be emitted (R322). -/
structure Sink where
  base : Word
  ctl : Word
  head : Nat
  tail : Nat
  drop : Nat
  lost : Nat
  wait : List (BitVec 128)
  sync : List Nat
  deriving DecidableEq, Repr

/-- A completion entry (R340). -/
structure CqEntry where
  subj : Word
  kind : BitVec 4
  st : BitVec 4
  cause : BitVec 7
  recfail : Bool
  deriving DecidableEq, Repr

/-- A partition's launch block (R166, R185, R292, R324, R339) and its tasks. `rootNow`, `banks0` and `banks1` are PTROOT and
the bank masks as the last invalidation left them in effect (R185). -/
structure Part where
  qbase : Vector Word 4
  qlog : Word
  qhead : Vector Nat 4
  qtail : Vector Nat 4
  frz : Bool
  en : Bool
  cown : List Nat
  releasing : List (Nat × List Word)
  ptroot : Word
  sbmask0 : Word
  sbmask1 : Word
  rootNow : Word
  banks0 : Word
  banks1 : Word
  tlbGo : Bool
  tlb : List (Nat × Nat × Word)
  tvecp : Word
  cqBase : Word
  cqLog : Nat
  cqIen : Bool
  cqEn : Bool
  cqHead : Nat
  cqTail : Nat
  cqDrop : Nat
  cqWait : List CqEntry
  tasks : List Task
  ages : Nat
  key : List Byte
  deriving DecidableEq, Repr

/-! ### Homes, stacks, interfaces -/

/-- A registered filter region (R209, R210): the 64 descriptor bytes, for each cell the keys of its window word and of its backing
entry as the latest `fbind` translated them, then the pairs of earlier translations that stay registered, the count of bindings, and the sticky bits that its homes hold (R217), by home. -/
structure Region where
  part : BitVec 4
  win : Word
  desc : List Byte
  cells : List (Nat × Nat)
  count : Nat
  sat : List Nat
  ovf : List Nat
  seenSat : List Nat
  seenOver : List Nat
  deriving DecidableEq, Repr

/-- A parked lay-by tile (R255): its quire (the physical index of member 0), slot, owning task, tag, receivers, bytes, and
the doublewords with an uncorrectable error (R306). -/
structure Tile where
  quire : Nat
  slot : Nat
  part : BitVec 4
  tcb : Word
  tag : BitVec 16
  rx : BitVec 4
  bytes : List Byte
  bad : List Nat
  deriving DecidableEq, Repr

/-- State of an HBM channel (R197): healthy, retraining or failed. -/
inductive ChanSt | ok | retraining | failed
  deriving DecidableEq, Repr

/-- HBM and the stack units (R187, R196 to R201): channels not healthy, stale chunks, chunks whose CRC fails, tags of
stripes' chunks, parity-pending stripes, budget left and commands queued of each stack. A chunk is 32·stripe + channel. -/
structure Hbm where
  chans : List (Nat × ChanSt)
  stale : List Nat
  crcBad : List Nat
  tags : List (Nat × BitVec 4)
  pending : List Nat
  budget : Vector Nat 8
  capacity : Vector Nat 8
  queued : Vector Nat 8
  deriving DecidableEq, Repr

/-- A lease-table entry (R346, R347). -/
structure Lease where
  st : BitVec 3
  role : Bool
  part : BitVec 4
  key : BitVec 4
  peer : BitVec 10
  lidx : BitVec 6
  grace : BitVec 16
  reason : BitVec 8
  base : Word
  deadline : Word
  wiping : Bool
  deriving DecidableEq, Repr

/-- A message sent to a peer package (R343, R344). -/
structure PeerMsg where
  va : Word
  part : BitVec 4
  req : PeerReq
  deriving DecidableEq, Repr

/-- An answer sent to the host or to a peer (R337, R343, R344): the refusing cause's code or 0, the poison indication, data. -/
structure Reply where
  cause : BitVec 8
  poison : Bool
  bytes : List Byte
  deriving DecidableEq, Repr

/-- An answer to an SPDM request (R361): the measurement blocks that it reports, with their raw values, and the message that carries
them. -/
structure SpdmReply where
  blocks : List (Nat × List Byte)
  bytes : List Byte
  deriving DecidableEq, Repr

/-- The colophon's registers (R356 to R364). `hash` is the open hash's bytes; `keysWiped` is condition 2 of
R360, `mwAfterGo` says that the wipe under way started after the latest GO; `identity` is the draw of the TRNG that the fused device
identity key came from (R361). -/
structure Colo where
  lc : BitVec 3
  bootcnt : BitVec 32
  nonce : Vector Word 4
  hash : Option (List Byte)
  shadig : List Byte
  qx : List Byte
  qy : List Byte
  sr : List Byte
  ss : List Byte
  ecstat : BitVec 2
  am : Vector (List Byte) 8
  mwBusy : Bool
  mwDone : Bool
  mwErr : Bool
  mwAfterGo : Bool
  keysWiped : Bool
  dport : BitVec 16
  ready : Bool
  fwbad : Bool
  trapped : Bool
  lcerr : Bool
  identity : Option Nat
  spdm : List SpdmReply
  deriving DecidableEq, Repr

/-- An error that arises in a memory (R189, R195, R306): a double-bit or single-bit error of an SECDED word, a chunk whose CRC
fails, a doubleword of a lay-by tile or of an accumulator row, an internal memory of a core, a block held by an instruction cache, and a single-bit
error that a unit of a core meets and corrects in an internal memory (`pay` as R368 gives). -/
inductive Upset
  | word (w : Nat) (hard : Bool)
  | chunk (id : Nat)
  | tile (quire slot dw : Nat)
  | acc (p row dw : Nat)
  | core (p : Nat) (b : Bad)
  | icache (p key : Nat)
  | soft (p : Nat) (u : TrUnit) (pay : Nat)
  deriving DecidableEq, Repr

/-- What moves next, chosen by plain data: a core's next word, an event of the table, a VU issue with a delay in slots, one
unit of work of a started engine command, data read ahead for it, TIME and core cycles passing, instruction blocks and
translations taken into or dropped from their caches, a trace buffer draining, a stack's budget refilling, an error arising, the power
governor's readings and budgets, a register read by the host, a word whose read goes under way while the core runs on, a read under way that performs, a message
between the dies. -/
inductive Action
  | core (p : Nat)
  | ev (i : Instr)
  | vu (p delay : Nat)
  | work (p : Nat) (q : EngQ) (num k : Nat)
  | prefetch (p : Nat) (q : EngQ) (num : Nat) (va : Word) (n : Nat)
  | tick (n : Nat)
  | cycles (p n : Nat)
  | icacheFill (p : Nat) (va : Word)
  | icacheDrop (p key : Nat)
  | tlbFill (part : BitVec 4) (va : Word)
  | tlbDrop (part : BitVec 4) (page : Nat)
  | flush (p : Nat) (u : TrUnit)
  | refill (stack n : Nat)
  | upset (u : Upset)
  | readings (power temp coldest : BitVec 12) (budget : List Nat)
  | hostRead (m : HostAddr)
  | send (p : Nat)
  | back (p k : Nat)
  | message (die : Fin 2)
  deriving DecidableEq, Repr

/-- The package. `memBad` and `memSoft` are the 8-byte words (key / 8) of SECDED memory that hold a double-bit and a single-bit
error (R189); `product` is fixed; `throt` and `therm` are THERM.THROT and THERM.TRIP (R352), `tripped` says that the clocks are stopped (R353), `temp` and `coldest` are the readings
of the hottest and the coldest junction, `cold` that a junction has read below −25 °C since the reset and before the release (R354). `time` is TIME of each compute die (R318), `portErrs` the error counters of the
UALink ports (R342). `cur` is the core whose word runs next, `since` is the count of words that it had completed when pending work last moved, `agenda` is what moves first, `free`
the count of free values drawn. `devHeld` is set inside a step where an access of the device's own must wait, and clear between steps. -/
structure State where
  cores : List (Nat × Core)
  parts : Vector Part 16
  mem : List Host.Cell
  memBad : List Nat
  memSoft : List Nat
  regions : List Region
  tiles : List Tile
  hbm : Hbm
  sinks : Vector Sink 17
  devevt : List Word
  msi : List Nat
  pkgid : BitVec 10
  exbase : Word
  started : Bool
  leases : Vector Lease 64
  outbox : List PeerMsg
  replies : List Reply
  portErrs : Vector Nat 16
  product : Product
  plim : Nat
  power : BitVec 12
  temp : BitVec 12
  coldest : BitVec 12
  throt : Bool
  therm : Bool
  tripped : Bool
  cold : Bool
  released : Bool
  time : Vector Nat 2
  seals : Nat
  evictions : List (Nat × Phase × Ctx)
  colo : Colo
  cur : Nat
  since : Nat
  agenda : List Action
  free : Nat
  devHeld : Bool
  deriving DecidableEq, Repr

/-! ### Why a step stops -/

/-- A stop that the spec describes. Every one is safe: the hardware does nothing more either. -/
inductive Fault
  /-- Raised by `step` when a thermal trip has stopped the clocks (R353: "A tripped device runs no further instruction
  until the host resets it"). Safe. -/
  | clocksStopped
  deriving DecidableEq, Repr

/-- A stop of the model's own. -/
inductive Refusal
  /-- Raised by an arm of `exec` whose instruction has no meaning yet. Safe. -/
  | notModelled (mnemonic : String)
  deriving DecidableEq, Repr

/-! ### Reset -/

/-- A context at reset and at task start before its own values (R10, R173, R241, R245, R265). -/
def Ctx.reset : Ctx where
  pc := 0
  mode := .task
  g := Vector.replicate 32 0
  p := 1
  spill := Vector.replicate 512 0
  loops := Vector.replicate 4 Loop.idle
  order := []
  args := 0
  tcb := 0
  warn := 0
  vufl := 0
  tcause := 0
  tpc := 0
  tinfo := 0
  taddr := 0
  tvec := 0
  tsave := 0
  cut := Vector.replicate 7 0
  tentry := 0
  tseq := 0
  words := 0
  vu := {
    v := Vector.replicate 16 (Vector.replicate 1024 0)
    k := Vector.replicate 8 (Vector.replicate 16 0)
    vwin := Vector.replicate 16 Win.none
    kwin := Vector.replicate 8 Win.none
    rm := .rne
    queue := []
    num := 0
    slot := 0
    fifo := [] }
  sq := []
  lq := []
  loads := 0
  seq := 0
  tok := Vector.replicate 63 ⟨0, 0, []⟩
  bars := []
  fslots := Vector.replicate 16 ⟨none, 0, 0, false, false⟩
  me := {
    active := Plane.none
    shadow := Plane.none
    c := Vector.replicate 6 1
    ast := Vector.replicate 6 0
    rst := Vector.replicate 6 0
    rm := .nearest
    satf := false }
  ctab := none
  engMe := Eng.empty
  engWs := Eng.empty
  engCe := Eng.empty
  engBank := Eng.empty
  ceid := Vector.replicate 8 1
  mp := Vector.replicate 8 0
  mpAhead := []
  sched := 0
  plan := none

/-- The seat of a core that holds no task. -/
def Seat.none : Seat := ⟨0, 0, 0, 0, 0, 0, 0, 0⟩

/-- A core at reset; the colophon's MODE is SYSTEM (R358). -/
def Core.reset : Core where
  ctx := Ctx.reset
  seat := Seat.none
  phase := .free
  stalled := false
  trap := none
  preempt := false
  shadow := ⟨.empty, none, Seat.none, .free, 0, [], false, false, [], []⟩
  late := []
  mefl := 0
  prqReq := false
  prqSched := false
  stop := false
  bpa := Vector.replicate 4 0
  wpa := Vector.replicate 4 0
  dbg := ⟨false, false, false, 0, 0, none, false, false, [], [], 0⟩
  acc := Vector.replicate 1024 (Vector.replicate 128 0)
  accBad := []
  bad := []
  icache := []
  prof := ⟨false, Vector.replicate 28 0, Vector.replicate 63 0, Vector.replicate 96 0, Vector.replicate 32 0⟩
  tbuf := []
  tstall := []

/-- The colophon at reset: it always runs in SYSTEM mode (R358), from the start of its code memory (log 2). -/
def Core.resetColophon : Core :=
  { Core.reset with ctx := { Ctx.reset with mode := .system }, phase := .running }

/-- A partition at reset (R166, R185, R292, R339). -/
def Part.reset : Part where
  qbase := Vector.replicate 4 0
  qlog := 4
  qhead := Vector.replicate 4 0
  qtail := Vector.replicate 4 0
  frz := false
  en := false
  cown := []
  releasing := []
  ptroot := 0
  sbmask0 := 0
  sbmask1 := 0
  rootNow := 0
  banks0 := 0
  banks1 := 0
  tlbGo := false
  tlb := []
  tvecp := 0
  cqBase := 0
  cqLog := 6
  cqIen := false
  cqEn := false
  cqHead := 0
  cqTail := 0
  cqDrop := 0
  cqWait := []
  tasks := []
  ages := 0
  key := List.replicate 32 0

/-- The colophon's registers at reset (R358). -/
def Colo.reset : Colo where
  lc := 3
  bootcnt := 0
  nonce := Vector.replicate 4 0
  hash := none
  shadig := List.replicate 64 0
  qx := List.replicate 72 0
  qy := List.replicate 72 0
  sr := List.replicate 72 0
  ss := List.replicate 72 0
  ecstat := 0
  am := Vector.replicate 8 (List.replicate 64 0)
  mwBusy := false
  mwDone := false
  mwErr := false
  mwAfterGo := false
  keysWiped := false
  dport := 0
  ready := true
  fwbad := false
  trapped := false
  lcerr := false
  identity := some 0
  spdm := []

/-- A lease entry at reset (R346): GRACE 100, every other field 0. -/
def Lease.reset : Lease := ⟨0, false, 0, 0, 0, 0, 100, 0, 0, 0, false⟩

/-- The package right after the start-up sequence of R354: COLST.READY set, no partition enabled, nothing launched, every
memory zero (R357). -/
def State.reset : State where
  cores := [(Config.colophon, Core.resetColophon)]
  parts := Vector.replicate 16 Part.reset
  mem := []
  memBad := []
  memSoft := []
  regions := []
  tiles := []
  hbm := {
    chans := []
    stale := []
    crcBad := []
    tags := []
    pending := []
    budget := Vector.replicate 8 Config.budgetFull
    capacity := Vector.replicate 8 Config.budgetFull
    queued := Vector.replicate 8 0 }
  sinks := Vector.replicate 17 ⟨0, 0, 0, 0, 0, 0, [], []⟩
  devevt := []
  msi := []
  pkgid := 0
  exbase := 0
  started := false
  leases := Vector.replicate 64 Lease.reset
  outbox := []
  replies := []
  portErrs := Vector.replicate 16 0
  product := .pk
  plim := Product.pk.rating
  power := 0
  temp := 0
  coldest := 0
  throt := false
  therm := false
  tripped := false
  cold := false
  released := true
  time := Vector.replicate 2 0
  seals := 0
  evictions := []
  colo := Colo.reset
  cur := Config.colophon
  since := 0
  agenda := []
  free := 0
  devHeld := false

end Sys2Proof.Machine
end

