-- ==== Sys2Proof/Machine/Mem.lean ====
section
/-!
DEFINITION. Memory: the sparse tables, the one canonical byte memory and its keys (R7, R163, R187, R188), the error state
of SECDED words and HBM chunks (R189, R195 to R197, R365), trace records (R320 to R326) and the homes of places (R227).
-/

namespace Sys2Proof.Machine

/-! ### Sparse tables -/

/-- The entry of key `k`. -/
def look {α : Type} : List (Nat × α) → Nat → Option α
  | [], _ => none
  | (k, v) :: t, a => if k = a then some v else look t a

/-- The table with `k` set, keys rising. -/
def put {α : Type} : List (Nat × α) → Nat → α → List (Nat × α)
  | [], a, v => [(a, v)]
  | (k, w) :: t, a, v =>
    if a < k then (a, v) :: (k, w) :: t else if a = k then (a, v) :: t else (k, w) :: put t a v

/-- Every key is at least `lo`, and keys rise strictly: the canonical form of a table. -/
def risingFrom {α : Type} : Nat → List (Nat × α) → Bool
  | _, [] => true
  | lo, (k, _) :: t => decide (lo ≤ k) && risingFrom (k + 1) t

/-! ### Bytes and numbers (R7: little-endian) -/

/-- The number whose little-endian bytes are `l`. -/
def leNat : List Byte → Nat
  | [] => 0
  | b :: t => b.toNat + 256 * leNat t

/-- The `n` little-endian bytes of `x`. -/
def leBytes : Nat → Nat → List Byte
  | 0, _ => []
  | n + 1, x => BitVec.ofNat 8 x :: leBytes n (x / 256)

/-- Bits `hi` to `lo` of a number. -/
def bits (x hi lo : Nat) : Nat := (x >>> lo) % 2 ^ (hi + 1 - lo)

/-- Bits `hi` to `lo` of a word, as a number. -/
def wbits (x : Word) (hi lo : Nat) : Nat := bits x.toNat hi lo

/-- Bytes `o` to `o + n - 1` of a list, little-endian. -/
def fieldLE (l : List Byte) (o n : Nat) : Nat := leNat ((l.drop o).take n)

/-- A word from a number. -/
def w64 (n : Nat) : Word := BitVec.ofNat 64 n

/-- `base, base + 1, …`: `n` consecutive numbers. -/
def run (base n : Nat) : List Nat := (List.range n).map (base + ·)

/-! ### The byte memory -/

/-- The byte at key `a`; what nothing has written reads 0 (R357). -/
def Memory.get : List Host.Cell → Nat → Byte
  | [], _ => 0
  | (k, v) :: t, a => if k = a then v else Memory.get t a

/-- Writes one byte, keeping the canonical form. -/
def Memory.set : List Host.Cell → Nat → Byte → List Host.Cell
  | [], a, v => if v = 0 then [] else [(a, v)]
  | (k, w) :: t, a, v =>
    if a < k then (if v = 0 then (k, w) :: t else (a, v) :: (k, w) :: t)
    else if a = k then (if v = 0 then t else (a, v) :: t)
    else (k, w) :: Memory.set t a v

/-- Every key is above `lo`, keys rise strictly and no listed byte is 0. -/
def Memory.wfFrom : Nat → List Host.Cell → Bool
  | _, [] => true
  | lo, (k, v) :: t => decide (lo ≤ k) && decide (v ≠ 0) && Memory.wfFrom (k + 1) t

/-- The canonical form: addresses strictly rising, no entry equal to what an unlisted address reads as. -/
def Memory.wf (m : List Host.Cell) : Bool := Memory.wfFrom 0 m

/-- Writes consecutive bytes. -/
def Memory.setAll (m : List Host.Cell) (a : Nat) : List Byte → List Host.Cell
  | [] => m
  | b :: t => Memory.setAll (Memory.set m a b) (a + 1) t

/-- Reads `n` consecutive bytes. -/
def Memory.gets (m : List Host.Cell) (a : Nat) : Nat → List Byte
  | 0 => []
  | n + 1 => Memory.get m a :: Memory.gets m (a + 1) n

/-- Zeroes every byte whose key lies from `lo` up to `hi` (a wipe). -/
def Memory.clear (m : List Host.Cell) (lo hi : Nat) : List Host.Cell :=
  m.filter fun c => decide (c.1 < lo) || decide (hi ≤ c.1)

/-- Key of byte `o` of spine bank `b` (R184, R188). -/
def spineKey (b o : Nat) : Nat := 2 ^ 48 + b * Config.bankBytes + o
/-- Key of byte `o` of the scratchpad of core `p` (R163). -/
def spadKey (p o : Nat) : Nat := 2 ^ 49 + p * 2 ^ 20 + o
/-- Key of the colophon's code memory (R358). -/
def coloCode : Nat := 2 ^ 50
/-- Key of the colophon's data memory (R358). -/
def coloData : Nat := 2 ^ 50 + 2 ^ 16

/-- Is the key in HBM? -/
def isHbm (k : Nat) : Bool := decide (k < 2 ^ 48)
/-- Is the key in the spine store? -/
def isSpine (k : Nat) : Bool := decide (2 ^ 48 ≤ k) && decide (k < 2 ^ 49)
/-- Is the key in a scratchpad? -/
def isSpad (k : Nat) : Bool := decide (2 ^ 49 ≤ k) && decide (k < 2 ^ 50)
/-- The core whose scratchpad holds a key. -/
def spadCore (k : Nat) : Nat := (k - 2 ^ 49) / 2 ^ 20
/-- The bank that holds a spine key. -/
def spineBank (k : Nat) : Nat := (k - 2 ^ 48) / Config.bankBytes
/-- The HBM stack of a key (R187). -/
def stackOf (k : Nat) : Nat := k / Config.stackBytes

/-- The unit that orders every access to a place (R227). -/
inductive Home
  | port (p : Nat) | bank (b : Nat) | stack (k grp : Nat) | peer (pkg : Nat) | unit
  deriving DecidableEq, Repr

/-- The stripe of an HBM byte within its stack (R187). -/
def stripeOf (k : Nat) : Nat := (k % Config.stackBytes) / 960

/-- The home of a memory key (R227): for HBM the controller of the stripe's channel group (R187). -/
def homeOf (k : Nat) : Home :=
  if isHbm k then .stack (stackOf k) (stripeOf k % 2)
  else if isSpine k then .bank (spineBank k)
  else if isSpad k then .port (spadCore k)
  else .unit

/-- The die of a home: CD0 holds columns 0 to 19, banks 0 to 63, stacks 0 to 3 (R161, R187, R188). -/
def Home.die : Home → Option Nat
  | .port p => some (if p % 40 < 20 then 0 else 1)
  | .bank b => some (if b < 64 then 0 else 1)
  | .stack k _ => some (if k < 4 then 0 else 1)
  | .peer _ => none
  | .unit => none

/-- The die of a core. -/
def dieOf (p : Nat) : Nat := if p % 40 < 20 then 0 else 1

/-! ### HBM under parity -/

/-- The number of stripe `st` of stack `k` within the package. -/
def stripeId (k st : Nat) : Nat := k * 50331648 + st

/-- The stripe id of an HBM key. -/
def stripeIdOf (k : Nat) : Nat := stripeId (stackOf k) (stripeOf k)

/-- The channel of data chunk `j` of stripe `st` (R187): the j-th channel of the group that is not the parity channel. -/
def dataChannel (st j : Nat) : Nat :=
  let par := (st / 2) % 16
  (st % 2) * 16 + (if j < par then j else j + 1)

/-- The parity channel of a stripe (R187). -/
def parityChannel (st : Nat) : Nat := (st % 2) * 16 + (st / 2) % 16

/-- The channel that holds an HBM key. -/
def channelOf (k : Nat) : Nat := dataChannel (stripeOf k) (((k % Config.stackBytes) % 960) / 64)

/-- The chunk id of channel `ch` of a stripe id. -/
def chunkId (sid ch : Nat) : Nat := sid * 32 + ch

/-- State of channel `ch` of stack `k`. -/
def Hbm.chan (h : Hbm) (k ch : Nat) : ChanSt := (look h.chans (k * 32 + ch)).getD .ok

/-- A retraining channel of a group that holds a failed channel: parity does not bypass it, and its chunks wait (R197). -/
def Hbm.held (h : Hbm) (k ch : Nat) : Bool :=
  h.chan k ch == .retraining && (run (ch / 16 * 16) 16).any fun c => h.chan k c == .failed

/-- Is a chunk unavailable (R196)? -/
def Hbm.unavailable (h : Hbm) (sid ch : Nat) : Bool :=
  h.crcBad.contains (chunkId sid ch) || h.stale.contains (chunkId sid ch) ||
  (h.chan (sid / 50331648) ch != .ok && !h.held (sid / 50331648) ch)

/-- The channels of a stripe's group. -/
def groupOf (sid : Nat) : List Nat := run ((sid % 50331648) % 2 * 16) 16

/-- The unavailable channels of a stripe. -/
def Hbm.missing (h : Hbm) (sid : Nat) : List Nat := (groupOf sid).filter (h.unavailable sid ·)

/-- Must a rebuild in the stripe wait for a channel (R197)? -/
def Hbm.rebuildWaits (h : Hbm) (sid : Nat) : Bool :=
  decide ((h.missing sid).length ≤ 1) && (groupOf sid).any (h.held (sid / 50331648) ·)

/-- Does a read of a chunk wait (R197, R200): the stripe is parity-pending, the chunk lies on a held channel, or it is to be rebuilt
with one? -/
def Hbm.waits (h : Hbm) (sid ch : Nat) : Bool :=
  h.pending.contains sid || h.held (sid / 50331648) ch || (h.unavailable sid ch && h.rebuildWaits sid)

/-- What a read of one key meets. -/
inductive Meet | fine | corr | uncorr | wait
  deriving DecidableEq, Repr

/-- What a read of a chunk meets that need not wait (R196). -/
def Hbm.chunk (h : Hbm) (sid ch : Nat) : Meet :=
  if !h.unavailable sid ch then .fine else if (h.missing sid).length ≤ 1 then .corr else .uncorr

/-- Reading an HBM byte (R196, R197, R200). -/
def Hbm.read (h : Hbm) (k : Nat) : Meet :=
  let sid := stripeIdOf k
  let ch := channelOf k
  if h.waits sid ch then .wait else h.chunk sid ch

/-- Reading a byte of any memory (R189, R196). -/
def State.meet (s : State) (k : Nat) : Meet :=
  if isHbm k then s.hbm.read k
  else if s.memBad.contains (k / 8) then .uncorr
  else if s.memSoft.contains (k / 8) then .corr
  else .fine

/-- A stack unit or BAU reads a byte: it reads its own unsealed writes, and waits for a retraining channel (R197, R200). -/
def State.unitMeet (s : State) (k : Nat) : Meet :=
  if isHbm k then
    (if s.hbm.chan (stackOf k) (channelOf k) = .retraining ∨
        (s.hbm.unavailable (stripeIdOf k) (channelOf k) && s.hbm.rebuildWaits (stripeIdOf k)) = true then .wait
     else s.hbm.chunk (stripeIdOf k) (channelOf k))
  else s.meet k

/-- The first key of a list that meets `m`. -/
def State.firstMeet (s : State) (m : Meet) (ks : List Nat) : Option Nat := ks.find? fun k => s.meet k == m

/-- Must a read of these keys wait? -/
def State.mustWait (s : State) (ks : List Nat) : Bool := ks.any fun k => s.meet k == .wait

/-- The stripe and channel of each chunk that holds one of these HBM keys. -/
def chunksOf (ks : List Nat) : List (Nat × Nat) := (ks.map fun k => (stripeIdOf k, channelOf k)).eraseDups

/-- Do the keys hold all 960 data bytes of a stripe (R195)? -/
def fullStripe (ks : List Nat) (sid : Nat) : Bool :=
  decide (960 ≤ ks.length) && (run (sid / 50331648 * Config.stackBytes + sid % 50331648 * 960) 960).all ks.contains

/-- The parity channel of a stripe id. -/
def parityOf (sid : Nat) : Nat := parityChannel (sid % 50331648)

/-- The chunks that a write of these HBM keys rebuilds (R365): changed data chunks, and the parity chunk, where one alone of the
stripe is unavailable and the write does not cover the stripe. -/
def Hbm.rebuilt (h : Hbm) (ks : List Nat) : List (Nat × Nat) :=
  (chunksOf ks ++ ((ks.map stripeIdOf).eraseDups).map fun i => (i, parityOf i)).filter fun c =>
    h.unavailable c.1 c.2 && decide ((h.missing c.1).length ≤ 1) && !fullStripe ks c.1

/-- Must a write of these keys wait (R197, R200): a stripe is parity-pending, a chunk written or its parity lies on a held channel, or
a chunk is to be rebuilt with one? -/
def State.writeWaits (s : State) (ks : List Nat) : Bool :=
  match ks with
  | [] => false
  | k0 :: _ =>
    isHbm k0 &&
      ((chunksOf ks).any (fun c => s.hbm.pending.contains c.1 || s.hbm.held (c.1 / 50331648) c.2 ||
          s.hbm.held (c.1 / 50331648) (parityOf c.1)) ||
        (s.hbm.rebuilt ks).any fun c => s.hbm.rebuildWaits c.1)

/-- The 8-byte words that a write of these keys covers only in part (R189). -/
def partWords (ks : List Nat) : List Nat :=
  ((ks.map (· / 8)).eraseDups).filter fun w => !(run (w * 8) 8).all ks.contains

/-- Does a write of these keys meet an uncorrectable error (R189, R365)? -/
def State.writeErr (s : State) (ks : List Nat) : Option Nat :=
  match ks with
  | [] => none
  | k0 :: _ =>
    if isHbm k0 then
      ks.find? fun k =>
        let sid := stripeIdOf k
        s.hbm.unavailable sid (channelOf k) && decide (2 ≤ (s.hbm.missing sid).length) && !fullStripe ks sid
    else
      ks.find? fun k => s.memBad.contains (k / 8) && (partWords ks).contains (k / 8)

/-- The chunk state after a write of these HBM keys performs (R195, R197, R365): the tag of the writer, changed chunks on a
retraining channel stale, other changed chunks fresh. The parity chunk changes with them, but where a write in part finds it and
another chunk unavailable: it stays so. -/
def Hbm.wrote (h : Hbm) (tag : BitVec 4) (ks : List Nat) : Hbm :=
  let sids := (ks.map stripeIdOf).eraseDups
  let fresh := fun sid => fullStripe ks sid || decide ((h.missing sid).length ≤ 1) || !h.unavailable sid (parityOf sid)
  let all := chunksOf ks ++ ((sids.filter fresh).map fun i => (i, parityOf i))
  let on := fun (c : Nat × Nat) => h.chan (c.1 / 50331648) c.2
  let gone := (all.filter fun c => on c != .failed).map fun c => chunkId c.1 c.2
  let kept := (sids.filter fun i => !fresh i && on (i, parityOf i) == .retraining).map fun i => chunkId i (parityOf i)
  let dead := ((all.filter fun c => on c == .retraining).map fun c => chunkId c.1 c.2) ++ kept
  { h with
    crcBad := h.crcBad.filter fun c => !gone.contains c
    stale := (h.stale.filter fun c => !gone.contains c && !dead.contains c) ++ dead
    tags := all.foldl (fun t c => put t (chunkId c.1 c.2) tag) h.tags }

/-! ### Trace records and memory events -/

/-- UNIT codes (R320). -/
def trCode : TrUnit → Nat
  | .sq => 0 | .vu => 1 | .me => 2 | .ce => 3 | .ws => 4 | .bank => 5 | .sys => 6 | .stack => 7

/-- The loop fields of a record that no word causes, or with no active loop (R321). -/
def LoopTag.none : LoopTag := ⟨0, 0, 7⟩

/-- A trace record (R320). -/
def traceRec (ts : Nat) (part : BitVec 4) (src : Nat) (u : TrUnit) (evt : Nat) (l : LoopTag) (pay : Nat) : BitVec 128 :=
  BitVec.ofNat 128 (ts % 2 ^ 48 * 2 ^ 80 + part.toNat * 2 ^ 76 + src % 1024 * 2 ^ 66 + trCode u * 2 ^ 63 + evt % 128 * 2 ^ 56 +
    l.lid.toNat * 2 ^ 54 + l.iter.toNat * 2 ^ 40 + l.stg.toNat * 2 ^ 37 + pay % 2 ^ 37)

/-- log2 of a sink's entries (R324): values outside 8 to 24 are read as 8. -/
def Sink.log (k : Sink) : Nat :=
  let l := wbits k.ctl 12 8
  if 8 ≤ l ∧ l ≤ 24 then l else 8

/-- Is the sink enabled? -/
def Sink.en (k : Sink) : Bool := k.ctl.getLsbD 0
/-- Is the sink lossless (R324)? -/
def Sink.lossless (k : Sink) : Bool := k.ctl.getLsbD 1
/-- Is the sink full (R325), with the records that wait to be written? -/
def Sink.full (k : Sink) : Bool := decide (2 ^ k.log ≤ k.head + k.wait.length - k.tail)

/-- Does the sink take records of this event (R323)? -/
def Sink.takes (k : Sink) (evt : Nat) : Bool :=
  k.en && (if evt = 1 then k.ctl.getLsbD 2 else if evt = 2 then k.ctl.getLsbD 4
    else if 0x10 ≤ evt ∧ evt ≤ 0x12 then k.ctl.getLsbD 3 else true)

/-- Writes raw bytes of memory without checks. -/
def State.poke (s : State) (k : Nat) (l : List Byte) : State := { s with mem := Memory.setAll s.mem k l }

/-- Is an HBM byte in a unit that a lender entry holds out (R348): OFFERED, ACTIVE or REVOKING? -/
def State.lentOut (s : State) (k : Nat) : Bool :=
  s.leases.toList.any fun l => !l.role && (l.st == 1 || l.st == 2 || l.st == 3) &&
    l.base.toNat / 2 ^ 31 == k / 2 ^ 31

/-- The device's access at a physical HBM address is refused: the address lies outside HBM, or in a unit that is lent out (R348). -/
def State.ringRefused (s : State) (ks : List Nat) : Bool := ks.any fun k => decide (Config.hbmBytes ≤ k) || s.lentOut k

/-- The partition a sink belongs to, for the chunk tag of its ring; the system sink writes tag 0. -/
def sinkTag (i : Fin 17) : BitVec 4 := if i.val = 16 then 0 else BitVec.ofNat 4 i.val

/-- The die at which a record of a source is stamped (R318): banks 0 to 63 and stacks 0 to 3 lie on CD0 (R187, R188). -/
def srcDie (src : Nat) : Nat :=
  if src < 640 then dieOf src else if src < 768 then (if src < 704 then 0 else 1)
  else if 1004 ≤ src ∧ src < 1008 then 1 else 0

/-- TIME at a source. -/
def State.tsOf (s : State) (src : Nat) : Nat := s.time[srcDie src % 2]'(Nat.mod_lt _ (by decide))

/-- The fields of a CORR or UNCORR record of an HBM chunk (R368): PART, SRC, PAY. -/
def Hbm.fields (h : Hbm) (sid ch : Nat) : BitVec 4 × Nat × Nat :=
  ((look h.tags (chunkId sid ch)).getD 0, 1000 + sid / 50331648,
    sid / 50331648 + ch * 8 + sid % 50331648 % 2 ^ 26 * 2 ^ 11)

/-- The CORR (0x38) or UNCORR (0x39) record of an HBM chunk (R368). -/
def State.chunkRecord (s : State) (evt sid ch : Nat) : BitVec 128 :=
  let f := s.hbm.fields sid ch
  traceRec (s.tsOf f.2.1) f.1 f.2.1 .stack evt LoopTag.none f.2.2

/-- Sends MSI-X vector `v` if none of it is pending (R338). -/
def State.sendMsi (s : State) (v : Nat) : State := if s.msi.contains v then s else { s with msi := s.msi ++ [v] }

/-- A memory event reaches the host: DEVEVT and vector 16 (R198, R338). -/
def State.devNote (s : State) (r : BitVec 128) : State := { s with devevt := s.devevt ++ [r.setWidth 64] }.sendMsi 16

/-- TIME of a die moves forward to at least `t` (R319); every enabled sink owes a SYNC where TIME[39:0] wraps (R322). -/
def State.timeTo (s : State) (d : Fin 2) (t : Nat) : State :=
  let old := s.time[d]
  let s1 := { s with time := s.time.set d (max old t) }
  if old / 2 ^ 40 = max old t / 2 ^ 40 then s1
  else { s1 with sinks := s1.sinks.map fun (k : Sink) => if k.en then ({ k with sync := k.sync ++ [max old t] } : Sink) else k }

/-- A message from die `a` reaches die `b` (R319): the receiver's TIME moves to at least the sender's plus one. -/
def State.cross (s : State) (a b : Nat) : State :=
  if a % 2 = b % 2 then s
  else s.timeTo ⟨b % 2, Nat.mod_lt _ (by decide)⟩ (s.time[a % 2]'(Nat.mod_lt _ (by decide)) + 1)

/-- A message from outside moves TIME to at least the sender's plus one (R319), while the clocks run (R353): of both dies, which the device
keeps within 16 ticks of one another. -/
def State.receive (s : State) (sent : Nat) : State :=
  if s.tripped then s else (s.timeTo 0 (sent + 1)).timeTo 1 (sent + 1)

/-- A message of the host or of a peer arrives; the TIME that it carries is free. -/
def State.hear (s : State) : State := ({ s with free := s.free + 1 } : State).receive (Config.freeWord s.free).toNat

/-- An access from die `d` performs at a home by `f`: the request and its response carry TIME across the crossing (R319, R336). -/
def State.atHome (s : State) (d : Nat) (h : Home) (f : State → State) : State :=
  match h.die with
  | some e => (f (s.cross d e)).cross e d
  | none => f s

/-- The scheduler, on CD0 (log 58), sends each of these cores a message (R319, R336). -/
def State.tell (s : State) (cores : List Nat) : State := cores.foldl (fun s p => s.cross 0 (dieOf p)) s
/-- Each of these cores sends the scheduler a message. -/
def State.told (s : State) (cores : List Nat) : State := cores.foldl (fun s p => s.cross (dieOf p) 0) s

/-- The request of an access from die `d` reaches a home and its response returns. -/
def State.visitFrom (s : State) (d : Nat) (h : Home) : State := s.atHome d h id

/-- An access of core `p` to a home. -/
def State.visit (s : State) (p : Nat) (h : Home) : State := s.visitFrom (dieOf p) h

/-- What the write of a ring entry at its HBM home does: it performs, it must wait (R197, R200), or it does not perform, with the key of
an uncorrectable error where there is one (R365). `corr` lists the chunks that the write rebuilt. -/
inductive Ring
  | done (s : State) (corr : List (Nat × Nat)) | wait | lost (s : State) (key : Option Nat)

/-- Writes a ring entry as the device (R325, R340), in a message from die `d` (R336). -/
def State.ringWrite (s : State) (d : Nat) (tag : BitVec 4) (k : Nat) (l : List Byte) : Ring :=
  let ks := run k l.length
  if s.ringRefused ks then .lost s none
  else if s.writeWaits ks then .wait
  else
    let s := s.visitFrom d (homeOf k)
    match s.writeErr ks with
    | some b => .lost s (some b)
    | none => .done { s.poke k l with hbm := s.hbm.wrote tag ks } (s.hbm.rebuilt ks)

/-- The records that the write of a ring entry makes: the CORR of the chunks that it rebuilds, or the UNCORR of one that it cannot
write (R198, R365), and whether the host is told too. -/
abbrev SinkNews := List (BitVec 128 × Bool)

/-- SRC of a record (R320). -/
def recSrc (r : BitVec 128) : Nat := (r.extractLsb' 66 10).toNat

/-- Writes one record at TSHEAD and advances it (R325). A record whose home must wait waits in its order; one that cannot be
written is dropped and counted. What the write corrects or cannot write is returned. -/
def State.sinkPut (s : State) (i : Fin 17) (r : BitVec 128) : State × SinkNews :=
  let k := s.sinks[i]
  let later := { s with sinks := s.sinks.set i { k with wait := k.wait ++ [r] } }
  if k.wait ≠ [] then (later, [])
  else match s.ringWrite (srcDie (recSrc r)) (sinkTag i) (k.base.toNat + 16 * (k.head % 2 ^ k.log)) (leBytes 16 r.toNat) with
    | .wait => (later, [])
    | .lost s1 b =>
      let k := s1.sinks[i]
      ({ s1 with sinks := s1.sinks.set i { k with drop := k.drop + 1, lost := k.lost + 1 } },
        (b.map fun b => (s1.chunkRecord 0x39 (stripeIdOf b) (channelOf b), true)).toList)
    | .done s1 corr =>
      let k := s1.sinks[i]
      ({ s1 with sinks := s1.sinks.set i { k with head := k.head + 1 } }, corr.map fun c => (s1.chunkRecord 0x38 c.1 c.2, true))

/-- PART and SRC of a record that no context and no core emits: a partition's sink takes its own records only (R323), and the rest
is not stated, so it is free. -/
def State.sinkSrc (s : State) (i : Fin 17) : BitVec 4 × Nat :=
  let w := Config.freeWord s.free
  (if i.val = 16 then w.extractLsb' 10 4 else sinkTag i, w.toNat % 1024)

/-- The DROP record that a sink with room owes for what it lost (R325), none while nothing was lost. -/
def State.dropRecord (s : State) (i : Fin 17) : Option (BitVec 128 × State) :=
  let k := s.sinks[i]
  if k.en && !k.full && decide (0 < k.lost) then
    let a := s.sinkSrc i
    some (traceRec (s.tsOf a.2) a.1 a.2 .sys 0x30 LoopTag.none k.lost, { s with free := s.free + 1, sinks := s.sinks.set i { k with lost := 0 } })
  else none

/-- The DROP record of a sink that has room is written (R325). -/
def State.sinkDrop (s : State) (i : Fin 17) : State × SinkNews :=
  match s.dropRecord i with
  | some (r, s0) =>
    let s1 := s0.sinkPut i r
    (s1.1, (r, false) :: s1.2)
  | none => (s, [])

/-- A record waits at a sink in its order, or, without `keep`, meets a full ring and is dropped and counted (R325). -/
def State.sinkHold (s : State) (i : Fin 17) (keep : Bool) (r : BitVec 128) : State :=
  let k := s.sinks[i]
  { s with sinks := s.sinks.set i (if k.full && !keep then { k with drop := k.drop + 1, lost := k.lost + 1 } else { k with wait := k.wait ++ [r] }) }

/-- A record is written, or meets a full ring: it is dropped and counted, or, with `keep`, waits (R325). -/
def State.sinkOne (s : State) (i : Fin 17) (keep : Bool) (r : BitVec 128) : State × SinkNews :=
  if (s.sinks[i]).full then (s.sinkHold i keep r, []) else s.sinkPut i r

/-- SYNC records of TIME values (R322); a lossless sink loses none. -/
def State.sinkSyncs (s : State) (i : Fin 17) : List Nat → State × SinkNews
  | [] => (s, [])
  | t :: l =>
    let a := s.sinkSrc i
    let r := traceRec t a.1 a.2 .sys 0x00 LoopTag.none (t / 2 ^ 48 % 2 ^ 16)
    let b := { s with free := s.free + 1 }.sinkOne i (s.sinks[i]).lossless r
    let c := b.1.sinkSyncs i l
    (c.1, (r, false) :: (b.2 ++ c.2))

/-- The SYNC records that a sink owes. -/
def State.sinkSync (s : State) (i : Fin 17) : State × SinkNews :=
  let k := s.sinks[i]
  { s with sinks := s.sinks.set i { k with sync := [] } }.sinkSyncs i k.sync

/-- What a sink owes is emitted: the DROP of what it lost, before any later record (R325), then SYNC (R322). A SYNC that is still owed
is later than every record that was lost, since each record meets the sink after it. -/
def State.sinkDue (s : State) (i : Fin 17) : State × SinkNews :=
  let a := s.sinkDrop i
  let b := a.1.sinkSync i
  (b.1, a.2 ++ b.2)

/-- A record meets a sink (R325): the DROP and SYNC records that are owed come first; lossy sinks drop what they cannot hold. -/
def State.sinkTake (s : State) (i : Fin 17) (r : BitVec 128) : State × SinkNews :=
  let a := s.sinkDue i
  let b := a.1.sinkOne i false r
  (b.1, a.2 ++ b.2)

/-- CORR and UNCORR that writes of the system sink's own ring made reach the host and this sink, which receives every record (R323). They wait
there behind what it holds and are written later, since each write may make another. -/
def State.sysOwn (s : State) (l : SinkNews) : State :=
  l.foldl (fun s n =>
    if n.2 then
      let s := s.devNote n.1
      let s := match s.dropRecord 16 with
        | some (r, s) => s.sinkHold 16 false r
        | none => s
      if (s.sinks[16]).en then s.sinkHold 16 false n.1 else s
    else s) s

/-- A record meets the system sink. -/
def State.sysTake (s : State) (r : BitVec 128) : State :=
  let a := s.sinkTake 16 r
  a.1.sysOwn a.2

/-- What a partition sink's write made reaches the system sink, which receives every record (R323), and a CORR or UNCORR the host. -/
def State.sinkNews (s : State) (l : SinkNews) : State :=
  l.foldl (fun s n =>
    let s := if n.2 then s.devNote n.1 else s
    if (s.sinks[16]).en then s.sysTake n.1 else s) s

/-- A record meets a sink. -/
def State.sinkAccept (s : State) (i : Fin 17) (r : BitVec 128) : State :=
  if i.val = 16 then s.sysTake r
  else
    let a := s.sinkTake i r
    a.1.sinkNews a.2

/-- The records that wait at a sink are written as far as their homes and the ring's room let them (R325). -/
def State.sinkGo (s : State) (i : Fin 17) : State :=
  let k := s.sinks[i]
  if k.wait = [] then s
  else k.wait.foldl (fun (s : State) r =>
    let k := s.sinks[i]
    if k.wait.head? ≠ some r ∨ 2 ^ k.log ≤ k.head - k.tail then s
    else
      let s0 : State := { s with sinks := s.sinks.set i { k with wait := [] } }
      let a := s0.sinkPut i r
      let a1 := a.1
      let j := a1.sinks[i]
      if j.wait ≠ [] then s
      else
        let s1 : State := { a1 with sinks := a1.sinks.set i { j with wait := k.wait.drop 1 } }
        if i.val = 16 then s1.sysOwn a.2 else s1.sinkNews a.2) s

/-- Records of a sink's own are emitted at it. -/
def State.sinkOwed (s : State) (i : Fin 17) (l : State → State × SinkNews) : State :=
  let a := l s
  if i.val = 16 then a.1.sysOwn a.2 else a.1.sinkNews a.2

/-- What a sink owes is emitted (R322, R325). -/
def State.syncRecord (s : State) (i : Fin 17) : State := s.sinkOwed i (·.sinkDue i)

/-- The core table entry; an unlisted core is as reset leaves it. -/
def State.core (s : State) (p : Nat) : Core := (look s.cores p).getD Core.reset
/-- Replaces a core. -/
def State.setCore (s : State) (p : Nat) (c : Core) : State := { s with cores := put s.cores p c }
/-- Changes a core. -/
def State.mapCore (s : State) (p : Nat) (f : Core → Core) : State := s.setCore p (f (s.core p))

/-- A record joins the buffer of its unit; a unit of a core whose buffer is full stands from TIME `now`, if it runs a context of the
sink's partition (R326). -/
def Core.buffer (c : Core) (now : Nat) (u : TrUnit) (sink : Nat) (r : BitVec 128) : Core :=
  let l := c.tbuf ++ [(u, sink, r)]
  let full := decide (8 ≤ (l.filter (·.1 == u)).length) && u != .sys && c.seat.part.toNat == sink
  { c with tbuf := l, tstall := if full && !(c.tstall.any (·.1 == u)) then (u, now) :: c.tstall else c.tstall }

/-- Emits a record of a core's unit, or (`p` = none) of no core: to the partition's sink unless UNIT is STACK, and to the
system sink (R323). A record for a lossless sink waits in a buffer (R326). -/
def State.emit (s : State) (p : Option Nat) (part : BitVec 4) (src : Nat) (u : TrUnit) (evt : Nat) (l : LoopTag)
    (pay : Nat) : State :=
  let r := traceRec (s.tsOf src) part src u evt l pay
  let pi : Fin 17 := ⟨part.toNat, Nat.lt_of_lt_of_le part.isLt (by decide)⟩
  let k := s.sinks[pi]
  let s := if k.takes evt && u != .stack then
      (if k.lossless then s.mapCore (p.getD (if src < 640 then src else 0)) fun c => c.buffer (s.tsOf src) u part.toNat r
       else s.sinkAccept pi r)
    else s
  if (s.sinks[16]).takes evt then s.sysTake r else s

/-- The tag of the chunk that holds an HBM key (R187). That a chunk which no partition has written has tag 0, and that a wipe leaves the tags
as they are, is the model's choice (log 47). -/
def Hbm.tagOf (h : Hbm) (k : Nat) : BitVec 4 := (look h.tags (chunkId (stripeIdOf k) (channelOf k))).getD 0

/-- Reports a memory event: a record, DEVEVT and vector 16 (R198, R338). -/
def State.memEvent (s : State) (part : BitVec 4) (src : Nat) (u : TrUnit) (evt pay : Nat) (l : LoopTag := LoopTag.none) : State :=
  let l := if u = .stack then LoopTag.none else l
  let r := traceRec (s.tsOf src) part src u evt l pay
  (s.emit none part src u evt l pay).devNote r

/-- The partition whose bank mask holds a bank, 0 if none does (R185, R368). -/
def State.bankOwner (s : State) (b : Nat) : BitVec 4 :=
  match (List.finRange 16).find? (fun i =>
    let q := s.parts[i]
    if b < 64 then q.banks0.getLsbD b else q.banks1.getLsbD (b - 64)) with
  | some i => BitVec.ofNat 4 i.val
  | none => 0

/-- The partition that owns a core, if any (R166). -/
def State.ownerOf (s : State) (p : Nat) : Option (BitVec 4) :=
  ((List.finRange 16).find? fun i => (s.parts[i]).cown.contains p).map fun i => BitVec.ofNat 4 i.val

/-- Reports CORR or UNCORR of an HBM chunk (R368). -/
def State.reportChunk (s : State) (evt sid ch : Nat) : State :=
  let f := s.hbm.fields sid ch
  s.memEvent f.1 f.2.1 .stack evt f.2.2

/-- Reports CORR (0x38) or UNCORR (0x39) of a key, with the fields of R368; `l` is the loop fields of the word or command that met
the error (R321). -/
def State.reportKey (s : State) (evt k : Nat) (l : LoopTag := LoopTag.none) : State :=
  if isHbm k then s.reportChunk evt (stripeIdOf k) (channelOf k)
  else if isSpine k then
    s.memEvent (s.bankOwner (spineBank k)) (640 + spineBank k) .sys evt
      (spineBank k + (k - 2 ^ 48) % Config.bankBytes / 8 * 2 ^ 7) l
  else if isSpad k then
    s.memEvent ((s.ownerOf (spadCore k)).getD 0) (spadCore k) .sq evt ((k - 2 ^ 49) % 2 ^ 20 / 8) l
  else s

/-- Reports an uncorrectable error in doubleword `dw` of a lay-by tile or an accumulator row (R306, R368). -/
def State.reportTile (s : State) (quire slot dw : Nat) (l : LoopTag := LoopTag.none) : State :=
  s.memEvent ((s.ownerOf quire).getD 0) quire .ce 0x39 (slot + dw * 2 ^ 4) l
@[inherit_doc State.reportTile] def State.reportAcc (s : State) (p row dw : Nat) (l : LoopTag := LoopTag.none) : State :=
  s.memEvent ((s.ownerOf p).getD 0) p .me 0x39 (row + dw * 2 ^ 10) l

/-- One key for each chunk or word of a list. -/
def firstKeys (ks : List Nat) : List Nat :=
  ks.foldl (fun acc k =>
    if acc.any (fun j => if isHbm k then isHbm j && stripeIdOf j == stripeIdOf k && channelOf j == channelOf k else j / 8 == k / 8)
    then acc else acc ++ [k]) []

/-- Reports each chunk or word of a read that was corrected (R196, R198); a corrected single-bit word is good again. -/
def State.reportCorr (s : State) (ks : List Nat) (l : LoopTag := LoopTag.none) : State :=
  let hit := ks.filter fun k => s.meet k == .corr
  let s := (firstKeys hit).foldl (fun s k => s.reportKey 0x38 k l) s
  { s with memSoft := s.memSoft.filter fun w => !(hit.map (· / 8)).contains w }

/-- The same for a read of a stack unit or BAU (R200). -/
def State.unitCorr (s : State) (ks : List Nat) (l : LoopTag := LoopTag.none) : State :=
  let hit := ks.filter fun k => s.unitMeet k == .corr
  let s := (firstKeys hit).foldl (fun s k => s.reportKey 0x38 k l) s
  { s with memSoft := s.memSoft.filter fun w => !(hit.map (· / 8)).contains w }

/-- The words that a write of these SECDED keys covers whole have fresh check bits (R189). -/
def State.freshWords (s : State) (ks : List Nat) : State :=
  let whole := fun w => (run (w * 8) 8).all ks.contains
  { s with memBad := s.memBad.filter (!whole ·), memSoft := s.memSoft.filter (!whole ·) }

/-- Reports what a write of these keys corrects or rebuilds (R189, R196, R365). -/
def State.writeCorr (s : State) (ks : List Nat) (l : LoopTag := LoopTag.none) : State :=
  match ks with
  | [] => s
  | k0 :: _ =>
    if isHbm k0 then (s.hbm.rebuilt ks).foldl (fun s c => s.reportChunk 0x38 c.1 c.2) s
    else s.reportCorr (ks.filter fun j => (partWords ks).contains (j / 8)) l

/-- Writes bytes with their keys as an agent: error state, tags and check bits follow (R189, R195, R365). The caller has checked
`writeWaits` and `writeErr`. -/
def State.storeMasked (s : State) (tag : BitVec 4) (l : List (Nat × Byte)) (lt : LoopTag := LoopTag.none) : State :=
  let ks := l.map (·.1)
  match l with
  | [] => s
  | (k0, _) :: _ =>
    let s := s.writeCorr ks lt
    let s := { s with mem := l.foldl (fun m (c : Nat × Byte) => Memory.set m c.1 c.2) s.mem }
    if isHbm k0 then { s with hbm := s.hbm.wrote tag ks } else s.freshWords ks

/-- The same for consecutive bytes. -/
def State.store (s : State) (tag : BitVec 4) (k : Nat) (l : List Byte) (lt : LoopTag := LoopTag.none) : State :=
  let ks := run k l.length
  let s := (s.writeCorr ks lt).poke k l
  if isHbm k then { s with hbm := s.hbm.wrote tag ks } else s.freshWords ks

/-- Reads `n` bytes at a key as a number. -/
def State.peek (s : State) (k n : Nat) : Nat := leNat (Memory.gets s.mem k n)

/-- A fresh free bit, element, word. -/
def State.draw (s : State) : Nat × State := (s.free, { s with free := s.free + 1 })

end Sys2Proof.Machine
end

