-- ==== Sys2Proof/Machine/Xlate.lean ====
section
/-!
DEFINITION. Addresses: the virtual address map and its checks (R181, R182, R367), page tables (R183 to R186), NEEDS bounds
(R169), quire addresses (R163) and the checks of leases (R348) and routes (R343).
-/

namespace Sys2Proof.Machine

/-! ### NEEDS (R169) -/

/-- Are bytes `o` to `o + n - 1` of a scratchpad inside the bounds? A NEEDS of 0 grants the whole core. -/
def needsSpad (needs : Word) (o n : Nat) : Bool :=
  let b := wbits needs 7 0 * 4096
  if needs = 0 then decide (o + n ≤ Config.spadBytes)
  else decide (b ≤ o) && decide (o + n ≤ b + wbits needs 15 8 * 4096)

/-- Is barrier `b` inside the bounds? -/
def needsBar (needs : Word) (b : Nat) : Bool :=
  needs = 0 || (decide (wbits needs 43 37 ≤ b) && decide (b < wbits needs 43 37 + wbits needs 50 44))

/-- Are accumulator rows `a` to `a + n - 1` inside the bounds? -/
def needsAcc (needs : Word) (a n : Nat) : Bool :=
  if needs = 0 then decide (a + n ≤ 1024)
  else decide (wbits needs 25 16 ≤ a) && decide (a + n ≤ wbits needs 25 16 + wbits needs 36 26)

/-! ### Page tables -/

/-- A leaf, with the number of address bits below its page size. -/
structure Leaf where
  e : Word
  sh : Nat
  deriving DecidableEq, Repr

/-- Physical address of a virtual address under a leaf. -/
def Leaf.phys (l : Leaf) (va : Nat) : Nat := wbits l.e 47 8 * 256 + va % 2 ^ l.sh
/-- TGT of a leaf. -/
def Leaf.tgt (l : Leaf) : Nat := wbits l.e 59 58
/-- TYPE of a leaf. -/
def Leaf.type (l : Leaf) : Nat := wbits l.e 57 56

/-- Is a virtual address in the spine range (R181)? -/
def inSpine (va : Nat) : Bool := decide (0xFE0000000000 ≤ va) && decide (va < 0xFF0000000000)
/-- Is a virtual address in a translated range (R181)? -/
def translated (va : Nat) : Bool := decide (va < 0x800000000000) || inSpine va

/-- Does an entry set a bit shown as zero (R184)? -/
def entryZeros (e : Word) : Bool := wbits e 63 60 != 0 || wbits e 52 48 != 0 || wbits e 7 2 != 0

/-- Is a leaf malformed (R184)? -/
def leafBad (va : Nat) (l : Leaf) : Bool :=
  let a := wbits l.e 47 8 * 256
  a % 2 ^ l.sh != 0 || l.tgt == 3 || (l.tgt == 1) != inSpine va ||
  (l.tgt == 1 && (decide (21 < l.sh) || wbits l.e 47 28 != 0)) ||
  (l.tgt == 0 && decide (Config.hbmBytes < a + 2 ^ l.sh))

/-- What a translation finds; `refused` is a table that lies in a unit which is lent out (R348). -/
inductive Xlat
  | leaf (l : Leaf) | miss | wait | refused | bad (key : Nat)
  deriving DecidableEq, Repr

/-- The first key of a range that meets `m`, as a Bool. -/
def State.rangeMeets (s : State) (m : Meet) (k n : Nat) : Bool := (run k n).any fun j => s.meet j == m

/-- Must a walk wait for an entry (R197, R200)? A walk of the device's own is seen once its waits are over. -/
def State.entryWaits (s : State) (own : Bool) (k : Nat) : Bool := !own && s.rangeMeets .wait k 8

/-- Does an entry meet an error that cannot be corrected? -/
def State.entryBad (s : State) (k : Nat) : Bool :=
  (run k 8).any fun j => s.hbm.chunk (stripeIdOf j) (channelOf j) == .uncorr

/-- Walks the levels below a table at physical address `t`; each level gives the low bit of its index and its width. -/
def State.walkFrom (s : State) (own : Bool) (va : Nat) : List (Nat × Nat) → Nat → Xlat
  | [], _ => .miss
  | (lo, w) :: more, t =>
    let k := t + 8 * ((va >>> lo) % 2 ^ w)
    if s.lentOut k then .refused
    else if s.entryWaits own k then .wait
    else if s.entryBad k then .bad k
    else
      let e := w64 (s.peek k 8)
      if !e.getLsbD 0 || entryZeros e then .miss
      else if e.getLsbD 1 then (if leafBad va ⟨e, lo⟩ then .miss else .leaf ⟨e, lo⟩)
      else if decide (Config.hbmBytes < wbits e 47 8 * 256 + 256) then .miss
      else s.walkFrom own va more (wbits e 47 8 * 256)

/-- The levels of a page table (R183). -/
def levels : List (Nat × Nat) := [(31, 17), (26, 5), (21, 5), (16, 5)]

/-- The translation that a partition holds (R185). -/
def Part.held (q : Part) (va : Nat) : Option Leaf :=
  (q.tlb.find? fun t => t.1 == va / 2 ^ t.2.1).map fun t => ⟨t.2.2, t.2.1⟩

/-- The translation of a virtual address for a partition: a held translation (R185), else the tables. -/
def State.xlatBy (s : State) (own : Bool) (part : BitVec 4) (va : Nat) : Xlat :=
  let q := s.parts[part.toNat]'part.isLt
  match q.held va with
  | some l => .leaf l
  | none => s.walkFrom own va levels q.rootNow.toNat

/-- The translation of an access of a core or an engine. -/
def State.xlat (s : State) (part : BitVec 4) (va : Nat) : Xlat := s.xlatBy false part va
/-- The translation of an access of the device's own, or of a home: it takes the time it needs. -/
def State.xlatOwn (s : State) (part : BitVec 4) (va : Nat) : Xlat := s.xlatBy true part va

/-- The table entries that a walk reads, up to one with an uncorrectable error. -/
def State.walkEntries (s : State) (va : Nat) : List (Nat × Nat) → Nat → List Nat
  | [], _ => []
  | (lo, w) :: more, t =>
    let k := t + 8 * ((va >>> lo) % 2 ^ w)
    if s.lentOut k then []
    else
      let e := w64 (s.peek k 8)
      k :: (if s.entryBad k || !e.getLsbD 0 || entryZeros e || e.getLsbD 1 || decide (Config.hbmBytes < wbits e 47 8 * 256 + 256) then []
        else s.walkEntries va more (wbits e 47 8 * 256))

/-- The table entries that the translation of an address reads: none where it is held. -/
def State.entriesOf (s : State) (part : BitVec 4) (va : Nat) : List Nat :=
  let q := s.parts[part.toNat]'part.isLt
  if 2 ^ 48 ≤ va ∨ !translated va ∨ (q.held va).isSome then [] else s.walkEntries va levels q.rootNow.toNat

/-- The reads of a walk for an agent on die `d`: each carries TIME across the crossing (R319, R336), and reports what its home corrects
or cannot correct (R196, R198). -/
def State.walkedFrom (s : State) (d : Nat) (part : BitVec 4) (vas : List Nat) : State :=
  let pages := ((vas.map (· / 65536)).eraseDups).map (· * 65536)
  ((pages.flatMap (s.entriesOf part)).eraseDups).foldl (fun s k => s.atHome d (homeOf k) fun s =>
    if s.entryBad k then s.reportKey 0x39 k else s.reportCorr (run k 8)) s

/-- The walks of an access of core `p`; the colophon translates nothing (R358). -/
def State.walked (s : State) (p : Nat) (part : BitVec 4) (vas : List Nat) : State :=
  if p = Config.colophon then s else s.walkedFrom (dieOf p) part vas

/-! ### Checks -/

/-- The kind of an access: the permissions it needs, whether it is an 8-byte scalar load or store, whether a filter window
accepts it (R211), whether it is a fetch, a program's access or the device's own, and whether it is a copy to backing that no
registered region covers (R248). -/
structure AKind where
  rd : Bool := false
  wr : Bool := false
  ex : Bool := false
  s8 : Bool := false
  win : Bool := false
  dev : Bool := false
  bare : Bool := false
  deriving DecidableEq, Repr

/-- The outcome of the checks of R182. -/
inductive Chk
  | ok (pl : Place) | trap (c : Cause) (tinfo : Word) | wait
  deriving DecidableEq, Repr

/-- Does a bank belong to a partition (R185)? -/
def Part.hasBank (q : Part) (b : Nat) : Bool :=
  if b < 64 then q.banks0.getLsbD b else q.banks1.getLsbD (b - 64)

/-- Checks 2 to 4 of R182 in a translated range. R366 has an access of the device's own reach a normal page and names no cause for one that
passes R182 and reaches a stack-unit result page: FILTER is the model's choice (log 58). A filter-window page of leased memory holds no
registered region (R209, R211), and its words have keys of their own; that LEASE stands before FILTER there is the model's choice (log 60). -/
def State.checkPage (s : State) (part : BitVec 4) (die : Fin 2) (a : AKind) (va : Nat) : Chk :=
  match s.xlatBy a.dev part va with
  | .miss => .trap .xmiss 0
  | .wait => .wait
  | .refused => .trap .xperm 0
  | .bad _ => .trap .memerr 0
  | .leaf l =>
    let q := s.parts[part.toNat]'part.isLt
    let pa := l.phys va
    if (a.rd && !l.e.getLsbD 53) || (a.wr && !l.e.getLsbD 54) || (a.ex && !l.e.getLsbD 55) then .trap .xperm 0
    else if l.tgt = 1 ∧ !q.hasBank (bits pa 27 21) then .trap .xperm 0
    else if a.ex ∧ l.type ≠ 0 then .trap .xperm 0
    else if l.type = 2 ∧ !a.bare then .trap .filter 2
    else if l.type = 3 ∧ a.wr then .trap .xperm 0
    else if l.type = 1 ∧ !a.win then .trap .filter 1
    else if a.dev ∧ l.type = 3 then .trap .filter 0
    else if l.tgt = 2 then
      let e := bits pa 36 31
      let le := s.leases[e % 64]'(Nat.mod_lt _ (by decide))
      if le.role ∧ (le.st = 2 ∨ le.st = 3) ∧ le.part = part ∧ s.time[die] < le.deadline.toNat then
        (if l.type = 1 then .ok (.window va (2 ^ 53 + pa)) else .ok (.lease e (bits pa 30 0)))
      else .trap .lease 1
    else
      let key := if l.tgt = 1 then 2 ^ 48 + bits pa 27 0 else pa
      if l.tgt = 0 ∧ s.lentOut pa then .trap .xperm 0
      else if l.type = 1 then .ok (.window va key)
      else .ok (.mem key)

/-- The physical index of virtual position (vx, vy) of the task on core `p`. -/
def physAt (p : Nat) (t : Seat) (vx vy : Nat) : Nat := p - t.vx - 40 * t.vy + vx + 40 * vy

/-- The physical index of quire member `m` of core `p`, if it lies in the rectangle (R163). -/
def quireMember (p : Nat) (t : Seat) (m : Nat) : Option Nat :=
  let vx := t.vx / 2 * 2 + m % 2
  let vy := t.vy / 2 * 2 + m / 2
  if vx < 2 ^ t.lw ∧ vy < 2 ^ t.lh then some (physAt p t vx vy) else none

/-- The quire range and SELF (R163). -/
def checkQuire (p : Nat) (t : Seat) (va n : Nat) : Chk :=
  let o := va - 0xFF0000000000
  let off := o % 2 ^ 20
  if 0x500000 ≤ o ∨ 0xC0000 ≤ off ∨ !needsSpad t.needs off n then .trap .window 0
  else if 0x400000 ≤ o then .ok (.mem (spadKey p off))
  else match quireMember p t (o / 2 ^ 20) with
    | some q => .ok (.mem (spadKey q off))
    | none => .trap .window 0

/-- Blocks of the MMIO range (R367). -/
inductive Block | launch | prq | sysTrace | dbgctl | lease | device | mailbox | profile | window | debug | colophon
  deriving DecidableEq, Repr

/-- The block of an MMIO address, none where it is unassigned (R367). -/
def mmioBlock (va : Nat) : Option Block :=
  let o := va - 0xFFFF00000000
  if 0x10000 ≤ o ∧ o ≤ 0x1FFFF then some .launch
  else if 0x20000 ≤ o ∧ o ≤ 0x213FF then some .prq
  else if 0x30000 ≤ o ∧ o ≤ 0x30FFF then some .sysTrace
  else if 0x40000 ≤ o ∧ o ≤ 0x413FF then some .dbgctl
  else if 0x50000 ≤ o ∧ o ≤ 0x507FF then some .lease
  else if 0x60000 ≤ o ∧ o ≤ 0x60FFF then some .device
  else if 0x70000 ≤ o ∧ o ≤ 0x701FF then some .mailbox
  else if 0x80000 ≤ o ∧ o ≤ 0x2FFFFF then some .profile
  else if 0x1000000 ≤ o ∧ o ≤ 0xAFFFFFF then some .window
  else if 0x10000000 ≤ o ∧ o ≤ 0x19FFFFFF then some .debug
  else if 0xC0000000 ≤ o ∧ o ≤ 0xC0000FFF then some .colophon
  else none

/-- MMIO accesses of a core (R182, R367). -/
def checkMmio (m : Mode) (a : AKind) (va : Nat) : Chk :=
  if a.ex then .trap .xperm 0
  else if m = .task then .trap .priv 0
  else if !a.s8 then .trap .xperm 0
  else match mmioBlock va with
    | none => .trap .xmiss 0
    | some .launch | some .prq | some .sysTrace | some .profile => .ok (.mmio va)
    | some .device => if a.wr then .trap .xperm 0 else .ok (.mmio va)
    | some _ => .trap .xperm 0

/-- The colophon's own map (R358): 64 KiB of code, 64 KiB of data, and its registers for 8-byte loads and stores. Of the other blocks of
the MMIO map it reaches none (R362, R367). -/
def checkColophon (a : AKind) (va n : Nat) : Chk :=
  if va + n ≤ 0x10000 then .ok (.mem (coloCode + va))
  else if 0x100000 ≤ va ∧ va + n ≤ 0x110000 then
    (if a.ex then .trap .xperm 0 else .ok (.mem (coloData + (va - 0x100000))))
  else if 0xFFFFC0000000 ≤ va ∧ va + n ≤ 0xFFFFC0001000 then
    (if a.s8 then .ok (.mmio va) else .trap .xperm 0)
  else if (mmioBlock va).isSome then .trap .xperm 0
  else .trap .xmiss 0

/-- Does a route reach package `pkg` (R343)? The package's own identifier always answers. -/
def State.route (s : State) (pkg : BitVec 10) : Bool := pkg == s.pkgid || Config.routeTo s.free pkg

/-- The checks of R182 for an access of core `p`, its context `c`, of `n` bytes at `va` (below 2^48). -/
def State.check (s : State) (p : Nat) (a : AKind) (va n : Nat) : Chk :=
  let c := s.core p
  if p = Config.colophon then checkColophon a va n
  else if va < 0x800000000000 then s.checkPage c.seat.part ⟨dieOf p % 2, Nat.mod_lt _ (by decide)⟩ a va
  else if va < 0xC00000000000 then
    (if a.ex then .trap .xperm 0
     else if s.route (BitVec.ofNat 10 (bits va 45 36)) then .ok (.peer va) else .trap .xmiss 0)
  else if va < 0xFC0000000000 then .trap .xmiss 0
  else if va < 0xFC0020000000 then (if a.ex then .trap .xperm 0 else .trap .window 0)
  else if va < 0xFE0000000000 then .trap .xmiss 0
  else if va < 0xFF0000000000 then
    (if a.ex then .trap .xperm 0 else s.checkPage c.seat.part ⟨dieOf p % 2, Nat.mod_lt _ (by decide)⟩ a va)
  else if va < 0xFF0001000000 then
    (if a.ex ∧ ¬ (0xFF0000400000 ≤ va ∧ va < 0xFF0000500000) then .trap .xperm 0 else checkQuire p c.seat va n)
  else if va < 0xFFFF00000000 then .trap .xmiss 0
  else checkMmio c.ctx.mode a va

/-- The walks of an access of core `p` to addresses whose check fails: they carry TIME and report what they meet (R198, R319). -/
def State.noteTrap (s : State) (p : Nat) (vas : List Nat) : State := s.walked p (s.core p).seat.part vas

/-! ### Messages to a peer -/

/-- The kind of a request as the completer checks it (R343): the permissions it needs, whether a filter window accepts it (R211), its
size, and whether it is an arrival at a waymark (R345). -/
structure RKind where
  rd : Bool
  wr : Bool
  ats : Bool
  win : Bool
  wmk : Bool
  n : Nat

/-- The kind of a request at an address: a window takes aligned words. -/
def reqKind (va : Nat) (req : PeerReq) : RKind :=
  let al := decide (va % 4 = 0)
  match req with
  | .read n => ⟨true, false, false, al && n == 4, false, n⟩
  | .write l => ⟨false, true, false, al && decide (l.length % 4 = 0), false, l.length⟩
  | .atomic _ _ _ => ⟨false, false, true, false, false, 8⟩
  | .vadd _ _ => ⟨true, true, false, false, false, 4⟩
  | .tap _ => ⟨true, false, false, al, false, 4⟩
  | .arrival _ => ⟨false, true, false, false, true, 16⟩
  | .closure _ => ⟨false, true, false, false, true, 16⟩

/-- The cause that a peer or a lender refuses a request with, from its code, none where it serves it: a completer those of R343, ENGINE for
an arrival alone (R345), and a lender LEASE, or MEMERR for an error (R348, R344). -/
def Cause.ofCode (pl : Place) (req : PeerReq) (c : Nat) : Option Cause :=
  let wmk := (reqKind 0 req).wmk
  match pl with
  | .lease _ _ => if c = 8 then some .memerr else if c = 0x0B then some .lease else none
  | _ =>
    if c = 0x0C ∧ wmk then some .engine else if c = 4 then some .xmiss else if c = 5 then some .xperm
    else if c = 7 then some .filter else if c = 8 then some .memerr else none

/-! ### The device's own accesses (R366) -/

/-- The device's own access through a partition's tables (R366). It is no core: that the quire range, an export window and MMIO, which
reach no normal page, give it XMISS is the model's choice (log 58). -/
def State.devCheck (s : State) (part : BitVec 4) (wr : Bool) (va : Nat) : Chk :=
  if va < 2 ^ 48 ∧ translated va then s.checkPage part 0 { rd := !wr, wr := wr, dev := true } va
  else if 0xFC0000000000 ≤ va ∧ va < 0xFC0020000000 then .trap .window 0
  else .trap .xmiss 0

/-- The places of `n` bytes that the device accesses through a partition's tables, or the cause and address of the first failed check. -/
def State.devPlaces (s : State) (part : BitVec 4) (wr : Bool) : Nat → Nat → Except (Cause × Nat) (List Place)
  | _, 0 => .ok []
  | va, n + 1 =>
    match s.devCheck part wr va with
    | .trap c _ => .error (c, va)
    | .wait => .ok []
    | .ok pl =>
      (match s.devPlaces part wr (va + 1) n with
        | .ok l => .ok (pl :: l)
        | .error e => .error e)

/-- Can a byte that the device reads not be had (R189, R196)? -/
def State.devBad (s : State) (k : Nat) : Bool :=
  if isHbm k then s.hbm.chunk (stripeIdOf k) (channelOf k) == .uncorr else s.meet k == .uncorr

/-- The cause with which a lender refuses the device's own access (R344, R348). -/
def State.devRefused (s : State) (pl : Place) (req : PeerReq) : Option Cause := Cause.ofCode pl req (Config.peerRefusal s.free).toNat

/-- Bytes that the device reads through a partition's tables: the bytes, or the cause and address of the first failed check
or uncorrectable error (R366). The bytes of leased memory are the lender's answer. -/
def State.devRead (s : State) (part : BitVec 4) : Nat → Nat → Except (Cause × Nat) (List Byte)
  | _, 0 => .ok []
  | va, n + 1 =>
    let more := fun (b : Byte) => (match s.devRead part (va + 1) n with
      | .ok l => Except.ok (b :: l)
      | .error e => .error e)
    match s.devCheck part false va with
    | .trap c _ => .error (c, va)
    | .ok (.mem k) => if s.devBad k then .error (.memerr, va) else more (Memory.get s.mem k)
    | .ok (.lease e off) =>
      (match s.devRefused (.lease e off) (.read 1) with
        | some c => .error (c, va)
        | none => more ((Config.peerWord (s.free + 2 + n)).setWidth 8))
    | _ => .error (.xperm, va)

/-- The memory keys among places. -/
def keysOf (l : List Place) : List Nat := l.filterMap fun | .mem k => some k | _ => none

/-- The pages of `n` bytes from `va`. -/
def pagesOf (va n : Nat) : List Nat := if n = 0 then [] else (run (va / 65536) ((va + n - 1) / 65536 + 1 - va / 65536)).map (· * 65536)

/-- The places that a read of the device reaches before its first failed check. -/
def State.devReach (s : State) (part : BitVec 4) (va n : Nat) : List Place :=
  match s.devPlaces part false va n with
  | .ok l => l
  | .error e => (match s.devPlaces part false va (e.2 - va) with
    | .ok l => l
    | .error _ => [])

/-- Must an access of the device's own wait (R197, R200), for its walk or at its homes? -/
def State.devWaits (s : State) (part : BitVec 4) (wr : Bool) (va n : Nat) : Bool :=
  (pagesOf va n).any (fun v => decide (v < 2 ^ 48) && translated v && s.xlat part v == .wait) ||
  (if wr then (match s.devPlaces part true va n with
    | .ok l => s.writeWaits (keysOf l)
    | .error _ => false)
   else s.mustWait (keysOf (s.devReach part va n)))

/-- An access of the device's own to leased memory leaves for the lender, and its answer carries TIME (R319, R348). -/
def State.devSent (s : State) (part : BitVec 4) (l : List Place) (req : PeerReq) : State :=
  match l.findSome? fun | .lease e off => some (e * 2 ^ 31 + off) | _ => none with
  | none => s
  | some a =>
    ({ s with outbox := s.outbox ++ [⟨w64 a, part, req⟩], free := s.free + 2 + l.length } : State).receive
      (Config.freeWord (s.free + 1)).toNat

/-- `f` is done with the keys of each home in turn, at that home, for an agent on die `d`. -/
def State.atHomes (s : State) (d : Nat) (ks : List Nat) (f : List Nat → State → State) : State :=
  ((ks.map homeOf).eraseDups).foldl (fun s h => s.atHome d h (f (ks.filter (homeOf · == h)))) s

/-- The device's write through a partition's tables (R366): nothing is written, and the cause answered, where a check fails
or an uncorrectable error is met. A write that must wait sets `devHeld`: the step that makes it is not taken yet. The device is taken to
stand on CD0 (log 58). -/
def State.devWrite (s : State) (part : BitVec 4) (va : Nat) (l : List Byte) : Option Cause × State :=
  let n := l.length
  if s.devWaits part true va n then (none, { s with devHeld := true })
  else
    let s1 := s.walkedFrom 0 part (pagesOf va n)
    match s.devPlaces part true va n with
    | .error e => (some e.1, s1)
    | .ok pls =>
      let ks := keysOf pls
      match s.writeErr ks, pls.findSome? fun p => match p with | .lease _ _ => s.devRefused p (.write l) | _ => none with
      | some k, _ => (some .memerr, s1.atHome 0 (homeOf k) (·.reportKey 0x39 k))
      | none, some c => (some c, s1.devSent part pls (.write l))
      | none, none =>
        let bytes := (pls.zip l).filterMap fun | (.mem k, b) => some (k, b) | _ => none
        (none, (s1.atHomes 0 ks fun ks s => s.storeMasked part (bytes.filter fun b => ks.contains b.1)).devSent part pls (.write l))

/-- The key of a byte that the device could not read. -/
def State.devBadKey (s : State) (part : BitVec 4) (e : Cause × Nat) : Option Nat :=
  match e.1, s.devCheck part false e.2 with
  | .memerr, .ok (.mem k) => some k
  | _, _ => none

/-- A read of the device with what it reports: the errors that it corrects, up to the one that fails it (R196, R366), and TIME that it carries
(R336). One that must wait sets `devHeld`. -/
def State.devGet (s : State) (part : BitVec 4) (va n : Nat) : Except (Cause × Nat) (List Byte) × State :=
  if s.devWaits part false va n then (.ok (List.replicate n 0), { s with devHeld := true })
  else
    let pls := s.devReach part va n
    let s1 := s.walkedFrom 0 part (pagesOf va n)
    let back := fun (m : Nat) => (s1.atHomes 0 (keysOf (pls.take m)) fun ks s => s.reportCorr ks)
    match s.devRead part va n with
    | .error e =>
      let s2 := (back (e.2 - va)).devSent part (pls.take (e.2 - va + 1)) (.read n)
      (.error e, match s.devBadKey part e with
        | some k => s2.atHome 0 (homeOf k) (·.reportKey 0x39 k)
        | none => s2)
    | .ok l => (.ok l, (back n).devSent part pls (.read n))

/-- A step of the scheduler whose accesses must wait (R197, R200) is not taken yet. -/
def State.unlessHeld (s : State) (f : State → Host.Outcome State Fault Refusal) : Host.Outcome State Fault Refusal :=
  match f s with
  | .next t => if t.devHeld then .next s else .next t
  | o => o

end Sys2Proof.Machine
end

