-- ==== Sys2Proof/Machine/Ops.lean ====
section
/-!
DEFINITION. Operations: registers (R10, R11), warnings (R17), the loop engines and the move to the next word (R66 to R72,
R309, R330), the stop and its cut (R297, R298), taking a trap (R294 to R296, R302, R305), the SYSTEM-mode halt and the task
fault (R175, R295), the return from a trap (R303, R304), and the frame that every scalar word runs in (R31, R32).
-/

namespace Sys2Proof.Machine

/-! ### Registers -/

/-- g[i]; g0 reads zero. -/
def Ctx.rg (x : Ctx) (i : BitVec 5) : Word := if i = 0 then 0 else x.g[i.toNat]'i.isLt

/-- Writes g[i]; a write to g0 is discarded (R11). -/
def Ctx.setG (x : Ctx) (i : BitVec 5) (v : Word) : Ctx :=
  if i = 0 then x else { x with g := x.g.set i.toNat v i.isLt }

/-- p[i]; p0 reads true. -/
def Ctx.rp (x : Ctx) (i : BitVec 3) : Bool := if i = 0 then true else x.p.getLsbD i.toNat

/-- One bit of a byte replaced. -/
def setBit8 (x : BitVec 8) (i : Nat) (v : Bool) : BitVec 8 :=
  if v then x ||| ((1 : BitVec 8) <<< i) else x &&& ~~~((1 : BitVec 8) <<< i)

/-- Writes p[i]; a write to p0 is discarded (R11). -/
def Ctx.setP (x : Ctx) (i : BitVec 3) (v : Bool) : Ctx :=
  if i = 0 then x else { x with p := setBit8 x.p i.toNat v }

/-- g[i] of a core. -/
def Core.rg (c : Core) (i : BitVec 5) : Word := c.ctx.rg i
/-- p[i] of a core. -/
def Core.rp (c : Core) (i : BitVec 3) : Bool := c.ctx.rp i

/-- Writes g[i] with fresh check bits (R306). -/
def Core.setG (c : Core) (i : BitVec 5) (v : Word) : Core :=
  { c with ctx := c.ctx.setG i v, bad := c.bad.filter (· != .g i.toNat) }
/-- Writes p[i]. That the predicates are one protected unit, whose error no write of one predicate removes, is the model's choice
(log 47). -/
def Core.setP (c : Core) (i : BitVec 3) (v : Bool) : Core := { c with ctx := c.ctx.setP i v }

/-- Sets WARN bit `w` (R17). -/
def Core.warn (c : Core) (w : Nat) : Core := { c with ctx := { c.ctx with warn := setBit8 c.ctx.warn w true } }

/-- W_RND, W_FENCE, W_LOOP, W_TAP, W_SPILL, W_CMB, W_MOD, W_GUARD (R17). -/
def wRnd : Nat := 7
@[inherit_doc wRnd] def wFence : Nat := 6
@[inherit_doc wRnd] def wLoop : Nat := 5
@[inherit_doc wRnd] def wTap : Nat := 4
@[inherit_doc wRnd] def wSpill : Nat := 3
@[inherit_doc wRnd] def wCmb : Nat := 2
@[inherit_doc wRnd] def wMod : Nat := 1
@[inherit_doc wRnd] def wGuard : Nat := 0

/-- MODE is SYSTEM. -/
def Core.sys (c : Core) : Bool := c.ctx.mode == .system

/-- A unit stands because its trace buffer was full (R326). -/
def Core.traceFull (c : Core) (u : TrUnit) : Bool := c.tstall.any (·.1 == u)

/-- g[i] as a name for SECDED errors. -/
def bg (i : BitVec 5) : Bad := .g i.toNat

/-! ### Loop engines -/

/-- The stage count S of an engine (R66): STG 7 runs with one stage, also where `csrw` wrote it, which is the model's choice (log 47). -/
def Loop.s (l : Loop) : Nat := if l.stg = 7 then 1 else l.stg.toNat + 1

/-- The end of a body: the address after its last word. -/
def Loop.fin (l : Loop) : BitVec 48 := l.start + 4 * l.len.setWidth 48

/-- Does an address lie in the body? -/
def Loop.has (l : Loop) (a : BitVec 48) : Bool := decide ((a - l.start).toNat < 4 * l.len.toNat)

/-- The loop engine of a number. -/
def Ctx.loop (x : Ctx) (i : BitVec 2) : Loop := x.loops[i.toNat]'i.isLt
/-- Replaces a loop engine. -/
def Ctx.setLoop (x : Ctx) (i : BitVec 2) (l : Loop) : Ctx := { x with loops := x.loops.set i.toNat l i.isLt }
/-- Makes an engine idle. -/
def Ctx.idleLoop (x : Ctx) (i : BitVec 2) : Ctx :=
  { x.setLoop i Loop.idle with order := x.order.filter (· != i) }

/-- Control leaves the body of an engine: it becomes idle, and with it every loop started later (R69). -/
def Ctx.leaveLoop (x : Ctx) (i : BitVec 2) : Ctx := (x.order.takeWhile (· != i)).foldl Ctx.idleLoop (x.idleLoop i)

/-- The stage predicates of kernel iteration `i` (R67), with `n` iterations whose stage 0 runs (R309). -/
def Ctx.stages (x : Ctx) (i n sn : Nat) : Ctx :=
  (List.range (min sn 7)).foldl
    (fun x s => x.setP (BitVec.ofNat 3 (1 + s)) (decide (s ≤ i) && decide (i - s < n))) x

/-- Some pipelined loop (S ≥ 2) is active. -/
def Ctx.pipelined (x : Ctx) : Bool := x.order.any fun i => decide (2 ≤ (x.loop i).s)

/-- Some pipelined loop has drained for a request and starts again at the resume (R309). -/
def Ctx.refilling (x : Ctx) : Bool := x.order.any fun i => (x.loop i).refill

/-- A request is pending that a TASK-mode core takes (R308, R309). -/
def Core.wanted (c : Core) : Bool := !c.sys && (c.stop || c.prqSched || c.prqReq)

/-- Kernel iteration `i` of engine `n` begins (R67, R309, R330). -/
def Core.iterate (c : Core) (n : BitVec 2) (i : Nat) : Core :=
  let l := c.ctx.loop n
  let cnt := l.count.toNat
  let drain := if 2 ≤ l.s ∧ l.drain = none ∧ c.wanted then some (min i cnt) else l.drain
  let l' := { l with iter := BitVec.ofNat 29 i, drain := drain }
  let x := { c.ctx.setLoop n l' with pc := l.start }
  let x := if 2 ≤ l.s then x.stages i (drain.getD cnt) l.s else x
  { c with ctx := x, dbg := { c.dbg with atIter := c.dbg.atIter || (c.dbg.want.isSome && decide (2 ≤ l.s)) } }

/-- The word at the PC is followed by address `t` (R68, R69): the engines decide, the innermost first. -/
def Core.follow (c : Core) (t : BitVec 48) : List (BitVec 2) → Core
  | [] => { c with ctx := { c.ctx with pc := t } }
  | n :: more =>
    let l := c.ctx.loop n
    if !l.has c.ctx.pc then c.follow t more
    else if t = l.fin then
      let i := l.iter.toNat + 1
      let cnt := l.count.toNat
      let go := l.act && !l.exit
      if go ∧ i < l.drain.getD cnt + l.s - 1 then c.iterate n i
      else match l.drain with
        | some n0 =>
          if go ∧ n0 < cnt then
            let l' := { l with iter := 0, count := BitVec.ofNat 28 (cnt - n0), drain := none, refill := true }
            { c with ctx := { c.ctx.setLoop n l' with pc := l.start } }
          else { c with ctx := c.ctx.idleLoop n }.follow t more
        | none => { c with ctx := c.ctx.idleLoop n }.follow t more
    else if l.has t then { c with ctx := { c.ctx with pc := t } }
    else { c with ctx := c.ctx.leaveLoop n }.follow t more

/-- A call or jump goes to address `t`: it leaves each body that holds the word and not `t`, whose end lies outside it (R69). -/
def Core.away (c : Core) (t : BitVec 48) : List (BitVec 2) → Core
  | [] => { c with ctx := { c.ctx with pc := t } }
  | n :: more =>
    let l := c.ctx.loop n
    if l.has c.ctx.pc && !l.has t then { c with ctx := c.ctx.leaveLoop n }.away t more else c.away t more

/-- The loop state holds an uncorrectable error (R306), and going on from the word at the PC to address `t` reads it: the word's body ends or is
left there (R68, R69). -/
def Core.meetsLoops (c : Core) (t : BitVec 48) : Bool :=
  c.bad.contains .loops && c.ctx.order.any fun n => (c.ctx.loop n).has c.ctx.pc && !(c.ctx.loop n).has t

/-- A word completes; a step of the debugger ends with it (R330). -/
def Core.completed (c : Core) : Core :=
  { c with
    stalled := false
    ctx := { c.ctx with words := c.ctx.words + 1 }
    dbg := if c.dbg.armed then { c.dbg with armed := false, want := some (5, 0) } else c.dbg }

/-- A word completes and the sequencer moves to address `t`, in sequence or by a taken branch (R68). -/
def Core.goTo (c : Core) (t : BitVec 48) : Core := c.completed.follow t c.ctx.order

/-- A call or jump completes (R69). -/
def Core.jumpTo (c : Core) (t : BitVec 48) : Core := c.completed.away t c.ctx.order

/-- A word completes and the sequencer runs on in sequence. -/
def Core.advance (c : Core) : Core := c.goTo (c.ctx.pc + 4)

/-- The loop fields of a record caused by a word guarded by p[g] (R321). -/
def Core.loopTag (c : Core) (gd : Guard) : LoopTag :=
  match c.ctx.order with
  | [] => LoopTag.none
  | n :: _ =>
    let stg := match c.ctx.order.find? fun i =>
        decide (2 ≤ (c.ctx.loop i).s) && (c.ctx.loop i).has c.ctx.pc with
      | some i => if gd.n = 0 ∧ 1 ≤ gd.g.toNat ∧ gd.g.toNat ≤ (c.ctx.loop i).s then gd.g - 1 else 0
      | none => 0
    ⟨n, (c.ctx.loop n).iter.setWidth 14, stg⟩

/-- The guard of a word without one. -/
def Guard.always : Guard := ⟨0, 0⟩

/-! ### The stop and the cut -/

/-- The queue entry that a command belongs to: a copy that a schedule released belongs to its `cstage` (R248). -/
def Cmd.entry (k : Cmd) : Nat := k.sched.getD k.num

/-- Entries of an engine queue that are held (R298). -/
def Eng.held (e : Eng) : List Cmd := (e.run.filter fun k => k.st != .running) ++ e.released ++ e.queue

/-- The number of the oldest held entry, or of the next (R298). -/
def Eng.cut (e : Eng) : Nat := e.held.foldl (fun m k => min m k.entry) e.next

/-- The trap of a faulted command. -/
def CmdSt.trap : CmdSt → Option TrapInfo
  | .faulted t => some t
  | _ => none

/-- The cut (R298). -/
def Ctx.cutNow (x : Ctx) : Vector Word 7 :=
  #v[w64 x.words, w64 (match x.lq with | [] => x.loads | l :: _ => l.num),
     w64 (match x.vu.queue with | [] => x.vu.num | e :: _ => e.num),
     w64 x.engMe.cut, w64 x.engWs.cut, w64 x.engCe.cut, w64 x.engBank.cut]

/-- Every unit has reached its stop (R297): started copies and BANK commands are over. ME and WS work is divided into whole
waves, rows and commands, so those units stand at a quiescent point between steps (R263, R285), but for a drain in the middle
of a row and a `wtab`, which is indivisible. A `cstage` is over where a copy of it waits for its channel or has faulted (R248). -/
def Ctx.quiet (x : Ctx) : Bool :=
  !x.engCe.run.any (fun k => k.st == .running && !x.engCe.released.any (·.sched == some k.num) &&
    !(k.op == .cstage && x.engCe.run.any fun j => j.sched == some k.num && j.st.trap.isSome)) &&
  !x.engBank.run.any (fun k => k.st == .running) &&
  !x.engMe.run.any (fun k => k.st == .running && k.op == .mdrain && !k.run.buf.isEmpty) &&
  !x.engWs.run.any (fun k => k.st == .running && k.op == .wtab)

/-- Loads whose data the VU has not consumed are discarded, to be issued again (R297); a charged fault goes with them. -/
def Ctx.dropLoads (x : Ctx) : Ctx :=
  { x with lq := x.lq.map fun l =>
      { l with fault := none, pieces := l.pieces.map fun q => { q with done := false, data := 0 } } }

/-- The ME and the WS stop (R284, R285): what runs is kept, an `mload` or `wstream` to start again at the resume. -/
def Eng.keep (e : Eng) : Eng := { e with run := e.run.map fun k => if k.st = .running then { k with st := .kept } else k }

/-- The engines of a context stop (R297); a `cstage` stays with the copies that wait for their channels. -/
def Ctx.holdEngines (x : Ctx) : Ctx := { x with engMe := x.engMe.keep, engWs := x.engWs.keep, engCe := x.engCe.keep }

/-- A stop ends the undefined windows: results of issued words are written (R300). -/
def Ctx.writeBack (x : Ctx) : Ctx :=
  { x with vu := { x.vu with vwin := Vector.replicate 16 Win.none, kwin := Vector.replicate 8 Win.none } }

/-- The trap that is taken of two (R296): a fault before a request, then the lower queue. -/
def TrapInfo.first (a b : TrapInfo) : TrapInfo :=
  let req := fun (t : TrapInfo) => t.cause == .preempt || t.cause == .stop
  if req a ∧ !req b then b else if req b ∧ !req a then a else if b.q.toNat < a.q.toNat then b else a

/-- Cause codes (R293). -/
def Cause.code : Cause → Nat
  | .illegal => 0x01 | .priv => 0x02 | .align => 0x03 | .xmiss => 0x04 | .xperm => 0x05 | .window => 0x06
  | .filter => 0x07 | .memerr => 0x08 | .token => 0x09 | .barrier => 0x0A | .lease => 0x0B | .engine => 0x0C
  | .brk => 0x0D | .watch => 0x0E | .trapi => 0x0F | .preempt => 0x10 | .stop => 0x11 | .loop => 0x12

/-! ### Tasks of a core -/

/-- The partition of a number. -/
def State.part (s : State) (n : BitVec 4) : Part := s.parts[n.toNat]'n.isLt
/-- Replaces a partition. -/
def State.setPart (s : State) (n : BitVec 4) (q : Part) : State := { s with parts := s.parts.set n.toNat q n.isLt }

/-- The task with a record address. -/
def Part.task (q : Part) (tcb : Word) : Option Task := q.tasks.find? (·.tcb == tcb)
/-- Replaces the task of the same record. -/
def Part.setTask (q : Part) (t : Task) : Part := { q with tasks := q.tasks.map fun u => if u.tcb == t.tcb then t else u }

/-- The cores of a placed task, by physical index. -/
def Task.cores (t : Task) : List Nat :=
  (List.range (2 ^ t.lh)).flatMap fun dy => (List.range (2 ^ t.lw)).map fun dx => (t.y + dy) * 40 + (t.x + dx)

/-- The fault record of a core (R305). -/
def faultRecord (p : Nat) (c : Core) (nest : Option Cause) : List Byte :=
  let x := c.ctx
  leBytes 8 x.tcause.toNat ++ leBytes 8 x.tpc.toNat ++ leBytes 8 x.tinfo.toNat ++ leBytes 8 x.taddr.toNat ++
  x.cut.toList.flatMap (fun w => leBytes 8 w.toNat) ++
  leBytes 4 (p % 1024 + c.seat.vx * 2 ^ 16 + c.seat.vy * 2 ^ 21 + (if nest.isSome then 2 ^ 31 else 0)) ++
  leBytes 4 (match nest with | some k => k.code | none => 0) ++ leBytes 8 x.tentry ++ List.replicate 24 0

/-- Writes a fault record at FAULTP (R305): whether it was left, and the state. -/
def State.putFault (s : State) (n : BitVec 4) (faultp : Word) (l : List Byte) : Option Cause × State :=
  if faultp = 0 then (none, s)
  else if faultp.toNat % 128 ≠ 0 then (some .align, s)
  else s.devWrite n faultp.toNat l

/-- A core ends a trap by a halt in SYSTEM mode (R175): at the first fault FRZ is set, the record written, and the task's
other cores sent STOP; scheduler requests are withdrawn (R296). R340 lists the accesses whose failure CAUSE holds, and the record's write and
the schedule's read (R366) are not among them: that they leave CAUSE as it is, is the model's choice (log 60). -/
def State.taskFault (s : State) (p : Nat) (nest : Option Cause) : State :=
  let c := s.core p
  let n := c.seat.part
  match (s.part n).task c.seat.tcb with
  | none => s
  | some t =>
    if t.fault ∨ t.st ≠ .running then s
    else
      let (bad, s) := (s.told [p]).putFault n t.faultp (faultRecord p c nest)
      let s := s.tell t.cores
      let q := s.part n
      let s := s.setPart n
        { q.setTask { t with fault := true, recfail := bad.isSome } with frz := true }
      t.cores.foldl (fun s o => s.mapCore o fun d => { d with
        prqSched := false
        preempt := false
        stop := d.stop || (o != p && (d.phase == .running || d.phase == .halting)) }) s

/-- A record of core `p` (R320). The colophon runs no partition's context and has no PHYS: its records reach the system sink alone, with
free PART and SRC. -/
def State.emitCore (s : State) (p : Nat) (u : TrUnit) (evt : Nat) (l : LoopTag) (pay : Nat) : State :=
  if p = Config.colophon then
    (if (s.sinks[16]).takes evt then
      let a := s.sinkSrc 16
      { s with free := s.free + 1 }.sysTake (traceRec (s.tsOf a.2) a.1 a.2 u evt l pay)
     else s)
  else s.emit (some p) (s.core p).seat.part p u evt l pay

/-- A halt in SYSTEM mode (R295): held entries are discarded, loops end, and the core waits only for queued stores whose data
is present. The colophon stops at once (R358). -/
def State.haltSystem (s : State) (p : Nat) (nest : Option Cause) : State :=
  if p = Config.colophon then
    let s := (s.mapCore p fun c => { c with phase := .halted, stalled := false }).emitCore p .sq 0x05 LoopTag.none 0
    if nest.isSome then { s with colo := { s.colo with trapped := true } } else s
  else
    let s := s.mapCore p fun c =>
      let x := c.ctx
      { c with
        phase := .halting
        stalled := false
        trap := none
        ctx := { x with
          sq := x.sq.filter (·.ready)
          lq := []
          vu := { x.vu with queue := [] }
          loops := Vector.replicate 4 Loop.idle
          order := []
          engMe := { x.engMe with queue := [], run := [] }
          engWs := { x.engWs with queue := [], run := [] }
          engCe := { x.engCe with queue := [], run := [], released := [] }
          engBank := { x.engBank with queue := [], run := [] } } }
    s.taskFault p nest

/-! ### Taking a trap -/

/-- The TRAP record (R322), with the loop fields of the word or entry that the trap is charged to. -/
def State.trapRecord (s : State) (p : Nat) (t : TrapInfo) (nested : Bool) : State :=
  s.emitCore p .sq 0x03 (t.tag.getD ((s.core p).loopTag Guard.always))
    (t.cause.code + t.q.toNat * 2 ^ 8 + (if nested then 2 ^ 11 else 0))

/-- The entry of a queue that has faulted, with the lowest number (R296, R298). -/
def Eng.faulted (e : Eng) : Option Cmd :=
  (e.run.filter (·.st.trap.isSome)).foldl (fun m k => match m with
    | none => some k
    | some u => if k.entry < u.entry then some k else some u) none

/-- The engine queue of a context. -/
def Ctx.eng (x : Ctx) : EngQ → Eng
  | .me => x.engMe | .ws => x.engWs | .ce => x.engCe | .bank => x.engBank
/-- Queue numbers of TCAUSE.Q (R291). -/
def EngQ.ofCode (q : Nat) : Option EngQ :=
  if q = 3 then some .me else if q = 4 then some .ws else if q = 5 then some .ce else if q = 6 then some .bank else none

/-- Within an engine queue the fault with the lowest number is taken (R296). -/
def Ctx.lowest (x : Ctx) (t : TrapInfo) : TrapInfo :=
  match (EngQ.ofCode t.q.toNat).bind fun q => (x.eng q).faulted with
  | some k => k.st.trap.getD t
  | none => t

/-- The taken trap of code 6, of an ME command that met errors in the accumulator store (R283): they have been reported, and a resume goes
on from its position (R304, log 54). -/
def Ctx.taken (x : Ctx) (t : TrapInfo) : Ctx :=
  match (if t.q = 3 ∧ t.cause = .engine ∧ wbits t.tinfo 7 0 = 6 then x.engMe.faulted else none) with
  | none => x
  | some k => { x with engMe := { x.engMe with run := x.engMe.run.map fun r =>
      if r.num = k.num then ({ r with run := { r.run with rows := [] } } : Cmd) else r } }

/-- Trap entry once the stop is complete (R294): the trap registers and the cut are written, and the core enters the handler
of TVEC in SYSTEM mode, or halts where there is none. -/
def State.enterTrap (s : State) (p : Nat) (t : TrapInfo) : State :=
  let t := (s.core p).ctx.lowest t
  let s := s.trapRecord p t false
  let c := s.core p
  let x := (c.ctx.taken t).holdEngines
  let now := s.time[dieOf p % 2]'(Nat.mod_lt _ (by decide))
  let y := { x.dropLoads.writeBack with
    tcause := w64 (t.cause.code + t.q.toNat * 2 ^ 12)
    tpc := x.pc.setWidth 64
    tinfo := t.tinfo
    taddr := t.taddr
    cut := x.cutNow
    tentry := now
    tseq := x.seq
    mode := .system
    pc := x.tvec.setWidth 48 }
  let c' := { c with
    ctx := y
    trap := none
    stalled := false
    phase := .running
    stop := c.stop && t.cause != .stop
    prqReq := c.prqReq && t.cause != .preempt }
  let s := s.setCore p c'
  if x.tvec = 0 then s.haltSystem p none else s

/-- The quire of a core: the physical index of its member 0 (R163). -/
def quireNo (p : Nat) : Nat := p / 80 * 80 + p % 40 / 2 * 2
/-- The member number of a core (R163). -/
def memberNo (t : Seat) : Nat := t.vx % 2 + 2 * (t.vy % 2)

/-- The tile belongs to the task of a seat and carries a tag. -/
def Tile.isFor (t : Tile) (seat : Seat) (tag : Nat) : Bool := t.part == seat.part && t.tcb == seat.tcb && t.tag.toNat == tag

/-- TAG of the descriptor of a started copy (R246). -/
def Cmd.tileTag (k : Cmd) : Nat := bits (fieldLE k.run.desc 0x14 4) 31 16

/-- The parked tile that a waiting `cacc` of core `p` drains (R256): of its task, with its tag, for this member, and drained by no other
`cacc` of the core. -/
def State.tileFor (s : State) (p : Nat) (k : Cmd) : Option Tile :=
  let c := s.core p
  let taken := fun (t : Tile) => c.ctx.engCe.run.any fun r => r.op == .cacc && r.run.parked == some t.slot
  s.tiles.find? fun t => t.quire == quireNo p && t.isFor c.seat k.tileTag && t.rx.getLsbD (memberNo c.seat) && !taken t

/-- Each `cacc` whose tile is parked when a stop begins has started (R256): its tile is its own. -/
def State.meetTiles (s : State) (p : Nat) : State :=
  ((s.core p).ctx.engCe.run.filter fun k => k.op == .cacc && k.st == .kept && k.run.parked.isNone).foldl (fun (s : State) k =>
    match s.tileFor p k with
    | none => s
    | some t => s.mapCore p fun c => { c with ctx := { c.ctx with engCe := { c.ctx.engCe with
        run := c.ctx.engCe.run.map fun r =>
          if r.num = k.num then ({ r with st := .running, run := { r.run with parked := some t.slot } } : Cmd) else r } } }) s

/-- Raises a trap (R294 to R296): in SYSTEM mode it is nested and the core halts; in TASK mode the core stops, and enters the
handler at once if every unit has reached its stop, else at the TRAP_ENTRY that follows. -/
def State.raise (s : State) (p : Nat) (t : TrapInfo) : State :=
  let c := s.core p
  if c.sys then (s.trapRecord p t true).haltSystem p (some t.cause)
  else
    let t' := match c.trap with
      | some u => TrapInfo.first u t
      | none => t
    let s := (s.setCore p { c with preempt := false }).meetTiles p
    if (s.core p).ctx.quiet then s.enterTrap p t'
    else s.mapCore p fun c => { c with trap := some t', stalled := false }

/-! ### Returning from a trap -/

/-- DONE of a token slot after the producer at place `k` has completed (R241): DONE moves over the complete prefix. -/
def Tok.complete (t : Tok) (k : BitVec 16) : Tok :=
  let rec sweep : Nat → BitVec 16 → List (BitVec 16) → Tok
    | 0, d, l => ⟨t.iss, d, l⟩
    | n + 1, d, l => if l.contains (d + 1) then sweep n (d + 1) (l.filter (· != d + 1)) else ⟨t.iss, d, l⟩
  sweep (t.ahead.length + 1) t.dn (k :: t.ahead)

/-- Counts the command at place `k` of token slot `tp` as complete; slot 63 is no token (R39, R241). -/
def Ctx.tokenDone (x : Ctx) (tp : BitVec 6) (k : BitVec 16) : Ctx :=
  if h : tp.toNat < 63 then { x with tok := x.tok.set tp.toNat ((x.tok[tp.toNat]'h).complete k) } else x

/-- A milepost after the transfer with identifier `id` has completed (R245): it moves over the complete prefix. -/
def Ctx.milepost (x : Ctx) (ch : BitVec 3) (id : Word) : Ctx :=
  let rec sweep : Nat → Word → List (BitVec 3 × Word) → Word × List (BitVec 3 × Word)
    | 0, d, l => (d, l)
    | n + 1, d, l =>
      if l.contains (ch, d + 1) then sweep n (d + 1) (l.filter (· != (ch, d + 1))) else (d, l)
  let all := (ch, id) :: x.mpAhead
  let r := sweep (all.length + 1) (x.mp[ch.toNat]'ch.isLt) all
  { x with mp := x.mp.set ch.toNat r.1 ch.isLt, mpAhead := r.2 }

/-- Removes an entry. -/
def Eng.without (e : Eng) (num : Nat) : Eng :=
  { e with
    run := e.run.filter (·.num != num)
    queue := e.queue.filter (·.num != num)
    released := e.released.filter (·.num != num) }

/-- Replaces an engine queue. -/
def Ctx.setEng (x : Ctx) (q : EngQ) (e : Eng) : Ctx :=
  match q with
  | .me => { x with engMe := e } | .ws => { x with engWs := e } | .ce => { x with engCe := e }
  | .bank => { x with engBank := e }

/-- The copy commands, whose transfers have a channel and a milepost (R245). -/
def isTransfer : EngOp → Bool
  | .cpy | .cnest | .cmc | .cacc | .cgat | .csct => true
  | _ => false

/-- An engine entry completes with no further effect: its token, and a transfer's milepost, are counted (R303). -/
def Ctx.retire (x : Ctx) (q : EngQ) (k : Cmd) : Ctx :=
  let x := x.setEng q ((x.eng q).without k.num)
  let x := if isTransfer k.op then x.milepost k.chan k.xid else x
  x.tokenDone k.tp k.place

/-- An entry completes with every copy that it released (R259, R303). -/
def Ctx.retireAll (x : Ctx) (q : EngQ) (n : Nat) : Ctx :=
  let e := x.eng q
  ((e.run ++ e.released).filter fun k => k.entry == n).foldl (fun x k => x.retire q k) x

/-- Dropping the faulted entry (R303). The VU issues a dropped load without data, and its destination is unspecified. -/
def Ctx.drop (x : Ctx) (q : Nat) : Ctx :=
  if q = 1 then
    match x.lq with
    | [] => x
    | l :: t => { x with
        lq := { l with dropped := true } :: t
        vu := { x.vu with queue := x.vu.queue.map fun e => if e.load = some l.num then { e with dropped := true } else e } }
  else if q = 2 then
    { x with vu := { x.vu with queue := match x.vu.queue with | [] => [] | e :: t => { e with dropped := true } :: t } }
  else match EngQ.ofCode q with
    | none => x
    | some e => match (x.eng e).faulted with
      | some k => x.retireAll e k.entry
      | none => x

/-- A held entry resumes (R304): `mload`, `wtab`, `wstream`, `walk` and a `cstage` that has released nothing start again, a
`cacc` without its tile waits for it (R256), the others go on from their positions. -/
def Eng.resume (e : Eng) : Eng :=
  let again := fun (k : Cmd) => k.op == .mload || k.op == .wtab || k.op == .wstream || k.op == .walk ||
    (k.op == .cstage && k.run.status.isNone)
  let next := fun (k : Cmd) => if k.op = .cacc ∧ k.run.parked.isNone ∧ k.run.status.isSome then CmdSt.kept else .running
  let back := (e.run.filter fun k => k.st != .running && again k).map fun k => { k with st := .queued, run := Run.fresh }
  { e with
    run := (e.run.filter fun k => k.st == .running || !again k).map fun k => { k with st := next k }
    queue := back ++ e.queue }

/-- The queue that serves a command (R38). -/
def opQueue : EngOp → EngQ
  | .mload | .mswap | .mcfg | .mgo | .mstream | .mdrain | .mzero | .mmode => .me
  | .wtab | .wstream => .ws
  | .cpy | .cnest | .cmc | .cacc | .cgat | .csct | .cstage => .ce
  | .fbind | .ftick | .walk => .bank

/-- The checks of a descriptor address (R202, R209, R247). -/
def descTrap (c : Core) (align size : Nat) (a : Word) : Option TrapInfo :=
  let v := a.toNat
  if v % align ≠ 0 then some { cause := .align, taddr := a }
  else if v < 0xFF0000400000 ∨ 0xFF00004BFFFF < v ∨ !needsSpad c.seat.needs (v - 0xFF0000400000) size then
    some { cause := .window, taddr := a }
  else none

/-- The issue-time check of a command (R202, R209, R247, R273). -/
def issueTrap (op : EngOp) (c : Core) (a : Word) : Option TrapInfo :=
  match op with
  | .cpy | .cmc | .cacc | .cgat | .csct | .walk => descTrap c 32 32 a
  | .cnest => descTrap c 64 64 a
  | .fbind => if a = 0 then none else descTrap c 64 64 a
  | _ => none

/-- Every engine resumes. -/
def Ctx.resumeEngines (x : Ctx) : Ctx :=
  { x with engMe := x.engMe.resume, engWs := x.engWs.resume, engCe := x.engCe.resume, engBank := x.engBank.resume }

/-- A pipelined loop that drained for a request starts its kernel iteration 0 at the resume (R309). -/
def Ctx.refill (x : Ctx) : Ctx :=
  x.order.foldl (fun x n =>
    let l := x.loop n
    if l.refill then (x.setLoop n { l with refill := false }).stages 0 l.count.toNat l.s else x) x

/-- `eret` in SYSTEM mode, once every access since trap entry has performed (R77, R303); the word counts, and ends a step. -/
def State.leaveTrap (s : State) (p : Nat) (l : LoopTag) : State :=
  let c := s.core p
  let x := c.ctx
  let x := if x.tcause.getLsbD 16 then x.drop (wbits x.tcause 14 12) else x
  let y := { x with mode := .task, pc := x.tpc.setWidth 48, words := x.words + 1 }.resumeEngines.refill
  let d := if c.dbg.armed then { c.dbg with armed := false, want := some (5, 0) } else c.dbg
  let s := s.setCore p { c with ctx := y, dbg := d, stalled := false }
  s.emitCore p .sq 0x04 l (x.tpc.toNat / 4)

/-! ### Events -/

/-- An event of one of the 640 cores; a number that names none changes nothing. -/
def onCore (p : Nat) (f : State → State) (s : State) : Host.Outcome State Fault Refusal :=
  if p < 640 then .next (f s) else .next s

/-! ### The frame of a scalar word -/

/-- What a word's own description gives: it completes and runs on, it completes and goes to an address by a branch, or by a call or
jump, it traps with no effect, it traps on an uncorrectable error that the memory reported, it waits for a debug stop, or it waits with no effect. -/
inductive Res
  | ok (s : State)
  | to (s : State) (t : BitVec 48)
  | jump (s : State) (t : BitVec 48)
  | trap (t : TrapInfo)
  | fail (s : State) (t : TrapInfo)
  | hold (s : State)
  | stall

/-- One outcome of a step. -/
abbrev Out := Host.Outcome State Fault Refusal

/-- A result that changes only the running core. -/
def State.okCore (s : State) (c : Core) : Res := .ok (s.setCore s.cur c)

/-- Is a guard true (R31)? -/
def Core.passes (c : Core) (g : Guard) : Bool := c.rp g.g != (g.n == 1)

/-- The MEMERR trap of a word that reads scalar state with an uncorrectable error (R306). -/
def badState : TrapInfo := { cause := .memerr, tinfo := 1 }

/-- An uncorrectable error in an internal memory of a core is reported, with the fields of R368 (R306). -/
def State.internalErr (s : State) (p : Nat) (u : TrUnit) (l : LoopTag) : State :=
  if p < 640 then s.memEvent ((s.ownerOf p).getD 0) p u 0x39 0 l else s

/-- The trap `t` of the running core's word with guard `g`: its record has the word's loop fields (R321). -/
def State.trapOf (s : State) (g : Guard) (t : TrapInfo) : TrapInfo := { t with tag := some ((s.core s.cur).loopTag g) }

/-- The running word with guard `g` meets an uncorrectable error in scalar state: it is reported, and the word traps (R306). -/
def State.raiseBad (s : State) (g : Guard) : State :=
  (s.internalErr s.cur .sq ((s.core s.cur).loopTag g)).raise s.cur (s.trapOf g badState)

/-- A word with guard `g` goes on to address `t` in the state `s'`, unless the loop state that decides there holds an error (R306). -/
def State.onTo (s : State) (g : Guard) (t : BitVec 48) (s' : State) : Out :=
  .next (if (s.core s.cur).meetsLoops t then s.raiseBad g else s')

/-- A word whose guard is false runs on with no effect (R12, R17, R31). -/
def State.skip (s : State) (g : Guard) : Out :=
  let c := s.core s.cur
  s.onTo g (c.ctx.pc + 4) (s.setCore s.cur (if g.g = 0 then c.warn wGuard else c).advance)

/-- Finishes a word with guard `g` with its result. -/
def State.finish (s : State) (g : Guard) : Res → Out
  | .ok s' => s.onTo g ((s.core s.cur).ctx.pc + 4) (s'.mapCore s.cur Core.advance)
  | .to s' t => s.onTo g t (s'.mapCore s.cur fun c => c.goTo t)
  | .jump s' t => s.onTo g t (s'.mapCore s.cur fun c => c.jumpTo t)
  | .trap t => .next (s.raise s.cur (s.trapOf g t))
  | .fail s' t => .next (s'.raise s.cur (s.trapOf g t))
  | .hold s' => .next (s'.mapCore s.cur fun c => { c with stalled := true })
  | .stall => .next (s.mapCore s.cur fun c => { c with stalled := true })

/-- A scalar word (R31, R32): the guard, then the word's own description on the running core, whose register reads meet
SECDED errors first (R306). -/
def word (g : Guard) (reads : List Bad) (f : State → Core → Res) (s : State) : Out :=
  let c := s.core s.cur
  if g.g ≠ 0 ∧ c.bad.contains .p then .next (s.raiseBad g)
  else if !c.passes g then s.skip g
  else if reads.any c.bad.contains then .next (s.raiseBad g)
  else s.finish g (f s c)

/-- A scalar word that the colophon traps with ILLEGAL whatever its guard (R358). -/
def coreWord (g : Guard) (reads : List Bad) (f : State → Core → Res) (s : State) : Out :=
  if s.cur = Config.colophon then .next (s.raise s.cur (s.trapOf g { cause := .illegal }))
  else word g reads f s

/-- A word's result after its register reads, where its own checks come before them (R32, R306). -/
def State.reading (s : State) (c : Core) (g : Guard) (reads : List Bad) (r : Res) : Res :=
  if reads.any c.bad.contains then .fail (s.internalErr s.cur .sq (c.loopTag g)) badState else r

/-- A word that may not run while the queues are held: PRIV in SYSTEM mode (R302). -/
def queueWord (g : Guard) (reads : List Bad) (f : State → Core → Res) (s : State) : Out :=
  coreWord g [] (fun s c => if c.sys then .trap { cause := .priv } else s.reading c g reads (f s c)) s

end Sys2Proof.Machine
end

