-- ==== Sys2Proof/Machine/Fetch.lean ====
section
/-!
DEFINITION. Fetch: the instruction's bytes (R13, R32, R79) through the instruction cache in 32-byte blocks, the boundary at
which a request or a debug stop is taken (R296, R309, R330), and breakpoints (R328).
-/

namespace Sys2Proof.Machine

/-- What the fetch of a word gives. -/
inductive Fetch
  | got (w : Code) (corr : List Nat)
  | lease (e off : Nat)
  | trap (t : TrapInfo) (bad : Option Nat)
  | wait
  deriving DecidableEq, Repr

/-- The word of four bytes, the byte at the lowest address first (R7, R30). -/
def codeOfList : List Byte → Code
  | [a, b, c, d] => codeOfBytes a b c d
  | _ => 0

/-- The guard bits of an instruction word (R31). -/
def wordGuard (w : Code) : Guard := if w.getLsbD 31 then Guard.always else ⟨w.extractLsb' 28 3, w.extractLsb' 27 1⟩

/-- The number under which an instruction cache holds a block of leased memory. -/
def leaseBlock (e off : Nat) : Nat := 2 ^ 51 + e * 2 ^ 31 + off / 32 * 32

/-- Fetches the word at the PC of core `p` (R13): the translation and range checks of R182 with EX, then the 32-byte block
from the cache or from memory. `corr` lists the keys of the block read from memory, `bad` is the key of an uncorrectable
error in it; a word of leased memory (R181) that is not held is the lender's to give. -/
def State.fetch (s : State) (p : Nat) : Fetch :=
  let c := s.core p
  let pc := c.ctx.pc.toNat
  match s.check p { rd := false, ex := true } pc 4 with
  | .wait => .wait
  | .trap k ti => .trap { cause := k, tinfo := ti, taddr := w64 pc } none
  | .ok (.mem key) =>
    let blk := key / 32 * 32
    (match look c.icache blk with
      | some l => .got (codeOfList ((l.drop (key - blk)).take 4)) []
      | none =>
        if (run blk 32).any fun k => s.meet k == .wait then .wait
        else if let some b := s.firstMeet .uncorr (run blk 32) then .trap { cause := .memerr, taddr := w64 pc } (some b)
        else .got (codeOfList (Memory.gets s.mem key 4)) (run blk 32))
  | .ok (.lease e off) =>
    (match look c.icache (leaseBlock e off) with
      | some l => .got (codeOfList ((l.drop (off % 32)).take 4)) []
      | none => .lease e off)
  | .ok _ => .trap { cause := .xperm, taddr := w64 pc } none

/-- A debug stop lands here (R330). -/
def Core.dbgLands (c : Core) : Bool := c.dbg.want.isSome && (c.dbg.atIter || !c.ctx.pipelined)

/-- A request is taken at this boundary (R309): outside a pipelined loop, or where its drain is over. -/
def Core.requestLands (c : Core) : Bool := c.wanted && (!c.ctx.pipelined || c.ctx.refilling)

/-- Takes the pending request (R296): a STOP, then a scheduler pre-emption, then a software request. -/
def State.takeRequest (s : State) (p : Nat) : State :=
  let c := s.core p
  if c.stop then s.raise p { cause := .stop }
  else if c.prqSched then (s.meetTiles p).mapCore p fun c => { c with preempt := true }
  else s.raise p { cause := .preempt }

/-- The breakpoint that matches an address (R327, R328). -/
def Core.breakAt (c : Core) (pc : BitVec 48) : Option (Fin 4) :=
  if c.sys then none
  else (List.finRange 4).find? fun i =>
    let b := c.bpa[i]
    b.getLsbD 63 && decide (wbits b 47 2 = pc.toNat / 4)

/-- The sequencer of a core may execute a word: it runs, no stop is under way, no unit of trace holds it. -/
def State.canRun (s : State) (p : Nat) : Bool :=
  let c := s.core p
  c.phase == .running && c.trap.isNone && !c.preempt && !c.dbg.stopped && !c.dbgLands && !c.traceFull .sq &&
  (s.released || p == Config.colophon)

/-- The fetch of address `va` has walked the tables (R185), and `f` is done where the block of the keys `ks` stands, if memory is read:
its home reports what it corrects or cannot correct (R189, R196), and the messages carry TIME (R319). -/
def State.fetchedBy (s : State) (p va : Nat) (ks : List Nat) (f : State → State) : State :=
  let s := s.walked p (s.core p).seat.part [va]
  match ks with
  | [] => s
  | k :: _ => s.atHome (dieOf p) (homeOf k) f

/-- The block of address `va` is read (R13). -/
def State.fetched (s : State) (p va : Nat) (corr : List Nat) (l : LoopTag) : State :=
  s.fetchedBy p va corr fun s => if corr.any (fun k => s.meet k == .corr) then s.reportCorr corr l else s

end Sys2Proof.Machine
end

