-- ==== Sys2Proof/Machine/Flags.lean ====
section
/-!
DEFINITION. Flags: the conditions of compares (R44, R55), the VU's sticky flags VUFL (R85) and the engine flags MEFL (R102).
-/

namespace Sys2Proof.Machine

/-- The condition codes of `cmp` and `cmpi` (R55). -/
def condition (c : BitVec 3) (a b : Word) : Bool :=
  match c with
  | 0 => a == b
  | 1 => a != b
  | 2 => a.slt b
  | 3 => !a.slt b
  | 4 => a.ult b
  | 5 => !a.ult b
  | 6 => a &&& b != 0
  | 7 => a &&& b == 0

/-- The combine modes of `cmp` (R55). -/
def combine (m : BitVec 2) (old c : Bool) : Bool :=
  match m with
  | 0 => c
  | 1 => old && c
  | 2 => old || c
  | 3 => old && !c

end Sys2Proof.Machine
end

