-- ==== Sys2Proof/Machine/Float.lean ====
section
/-!
DEFINITION. Float: IEEE formats and roundings (R83 to R88), integers and floats (R89), the eight-bit formats (R90 to R93) and
lg8 (R92, R103). A finite value is exact: a sign, a magnitude and a power of two; every operation rounds once.
-/

namespace Sys2Proof.Machine

/-- VUFL flags (R85): NV, DZ, OF, UF, NX, LSAT, LUFL. -/
abbrev Fl := BitVec 7
/-- Invalid operation. -/
def flNV : Fl := 1
/-- Division by zero. -/
def flDZ : Fl := 2
/-- Overflow. -/
def flOF : Fl := 4
/-- Underflow. -/
def flUF : Fl := 8
/-- Inexact. -/
def flNX : Fl := 16
/-- A conversion to lg8 clamped. -/
def flLSAT : Fl := 32
/-- A conversion to lg8 underflowed to zero. -/
def flLUFL : Fl := 64

/-- A result and the flags it raises. -/
abbrev Fres := Nat × Fl

/-- A binary format: precision, exponent range of normal numbers, and width of the exponent field. -/
structure Fmt where
  p : Nat
  emin : Int
  emax : Int
  ew : Nat
  deriving DecidableEq, Repr

/-- FP32, BF16, FP16 (R83) and E5M2 (R90). -/
def fp32 : Fmt := ⟨24, -126, 127, 8⟩
@[inherit_doc fp32] def bf16 : Fmt := ⟨8, -126, 127, 8⟩
@[inherit_doc fp32] def fp16 : Fmt := ⟨11, -14, 15, 5⟩
@[inherit_doc fp32] def e5m2 : Fmt := ⟨3, -14, 15, 5⟩

/-- Width of the fraction field. -/
def Fmt.fw (f : Fmt) : Nat := f.p - 1
/-- Width of the format. -/
def Fmt.w (f : Fmt) : Nat := f.p + f.ew
/-- Bits of an infinity. -/
def Fmt.inf (f : Fmt) (neg : Bool) : Nat := (2 ^ f.ew - 1) * 2 ^ f.fw + (if neg then 2 ^ (f.w - 1) else 0)
/-- Bits of the largest finite number. -/
def Fmt.big (f : Fmt) (neg : Bool) : Nat := (2 ^ f.ew - 1) * 2 ^ f.fw - 1 + (if neg then 2 ^ (f.w - 1) else 0)
/-- Bits of a zero. -/
def Fmt.zero (f : Fmt) (neg : Bool) : Nat := if neg then 2 ^ (f.w - 1) else 0
/-- The default NaN. -/
def Fmt.nan (f : Fmt) : Nat := (2 ^ f.ew - 1) * 2 ^ f.fw + 2 ^ (f.fw - 1)

/-- What a code stands for. A finite value is (−1)^neg × m × 2^e. -/
inductive Fv
  | nan (neg sig : Bool)
  | inf (neg : Bool)
  | fin (neg : Bool) (m : Nat) (e : Int)
  deriving DecidableEq, Repr

/-- Reads a code. -/
def Fmt.get (f : Fmt) (x : Nat) : Fv :=
  let neg := x.testBit (f.w - 1)
  let ex := x / 2 ^ f.fw % 2 ^ f.ew
  let fr := x % 2 ^ f.fw
  if ex = 2 ^ f.ew - 1 then (if fr = 0 then .inf neg else .nan neg (!fr.testBit (f.fw - 1)))
  else if ex = 0 then .fin neg fr (f.emin - f.fw)
  else .fin neg (fr + 2 ^ f.fw) ((ex : Int) - 1 + f.emin - f.fw)

/-- A signalling NaN quietened: the most significant fraction bit set (R86). -/
def Fmt.quiet (f : Fmt) (x : Nat) : Nat := x ||| 2 ^ (f.fw - 1)

/-- Is a NaN code signalling? -/
def Fmt.isSig (f : Fmt) (x : Nat) : Bool := match f.get x with | .nan _ g => g | _ => false
/-- Is a code a NaN? -/
def Fmt.isNan (f : Fmt) (x : Nat) : Bool := match f.get x with | .nan _ _ => true | _ => false

/-- Does a rounding mode move a magnitude away from zero, with the kept part odd or not, and the lost part compared with
half of the last place: below, at, above? -/
def roundsUp (md : Round) (neg odd : Bool) (lost : Bool) (half : Ordering) : Bool :=
  match md with
  | .rne => half == .gt || (half == .eq && odd)
  | .rz => false
  | .ru => lost && !neg
  | .rd => lost && neg

/-- `m × 2^e` rounded to a multiple of `2^q`, as that multiple's count, and whether it is exact. -/
def roundAt (md : Round) (neg : Bool) (m : Nat) (e q : Int) : Nat × Bool :=
  if q ≤ e then (m * 2 ^ (e - q).toNat, true)
  else
    let k := (q - e).toNat
    let n := m / 2 ^ k
    let r := m % 2 ^ k
    (if roundsUp md neg (n % 2 == 1) (r != 0) (compare (2 * r) (2 ^ k)) then n + 1 else n, r == 0)

/-- floor(log2(m × 2^e)) for m > 0. -/
def topBit (m : Nat) (e : Int) : Int := (m.log2 : Int) + e

/-- Rounds the exact nonzero value (−1)^neg × m × 2^e into a format (R84, R85): subnormals kept, overflow by the mode,
underflow where the result is tiny after rounding and inexact. -/
def Fmt.round (f : Fmt) (md : Round) (neg : Bool) (m : Nat) (e : Int) : Fres :=
  if m = 0 then (f.zero neg, 0)
  else
    let t := topBit m e
    let q := max t f.emin - f.fw
    let (n, ex) := roundAt md neg m e q
    let tiny := decide (t < f.emin) && decide ((roundAt md neg m e (t - f.fw)).1 < 2 ^ f.p ∨ t + 1 < f.emin)
    let top := topBit n q
    if n ≠ 0 ∧ f.emax < top then
      (if md = .rne ∨ (md = .ru ∧ !neg) ∨ (md = .rd ∧ neg) then f.inf neg else f.big neg, flOF ||| flNX)
    else
      let code := if n < 2 ^ f.fw then n
        else if n = 2 ^ f.p then ((q + f.fw + 2 - f.emin).toNat) * 2 ^ f.fw
        else ((q + f.fw + 1 - f.emin).toNat) * 2 ^ f.fw + (n - 2 ^ f.fw)
      (code + f.zero neg, if ex then 0 else if tiny then flUF ||| flNX else flNX)

/-- The exact sum of two finite values: sign, magnitude, exponent. -/
def exactAdd (na : Bool) (ma : Nat) (ea : Int) (nb : Bool) (mb : Nat) (eb : Int) : Bool × Nat × Int :=
  let e := min ea eb
  let a : Int := (ma * 2 ^ (ea - e).toNat : Nat)
  let b : Int := (mb * 2 ^ (eb - e).toNat : Nat)
  let v := (if na then -a else a) + (if nb then -b else b)
  (decide (v < 0), v.natAbs, e)

/-- The sign of an exact zero sum (R84): that of both operands where they agree, else − only in RD. -/
def zeroSign (md : Round) (na nb : Bool) : Bool := if na = nb then na else md == .rd

/-- Rounds an exact sum whose terms have the signs `na` and `nb`. -/
def Fmt.roundSum (f : Fmt) (md : Round) (na nb : Bool) (r : Bool × Nat × Int) : Fres :=
  if r.2.1 = 0 then (f.zero (zeroSign md na nb), 0) else f.round md r.1 r.2.1 r.2.2

/-- The NaN rule of R86 for operands in order; none where no operand is a NaN that decides. -/
def Fmt.nanOf (f : Fmt) (xs : List Nat) : Option Fres :=
  match xs.find? f.isSig with
  | some x => some (f.quiet x, flNV)
  | none => (xs.find? f.isNan).map fun x => (x, 0)

/-- a + b. -/
def Fmt.add (f : Fmt) (md : Round) (a b : Nat) : Fres :=
  match f.nanOf [a, b] with
  | some r => r
  | none =>
    match f.get a, f.get b with
    | .inf x, .inf y => if x = y then (f.inf x, 0) else (f.nan, flNV)
    | .inf x, _ => (f.inf x, 0)
    | _, .inf y => (f.inf y, 0)
    | .fin na ma ea, .fin nb mb eb => f.roundSum md na nb (exactAdd na ma ea nb mb eb)
    | _, _ => (f.nan, 0)

/-- The code with its sign inverted. -/
def Fmt.neg (f : Fmt) (a : Nat) : Nat := a ^^^ 2 ^ (f.w - 1)
/-- The code with its sign cleared. -/
def Fmt.abs (f : Fmt) (a : Nat) : Nat := a % 2 ^ (f.w - 1)

/-- a − b: a NaN operand keeps its sign (R86). -/
def Fmt.sub (f : Fmt) (md : Round) (a b : Nat) : Fres :=
  match f.nanOf [a, b] with
  | some r => r
  | none => f.add md a (f.neg b)

/-- a × b. -/
def Fmt.mul (f : Fmt) (md : Round) (a b : Nat) : Fres :=
  match f.nanOf [a, b] with
  | some r => r
  | none =>
    match f.get a, f.get b with
    | .inf x, .inf y => (f.inf (x != y), 0)
    | .inf x, .fin y m _ => if m = 0 then (f.nan, flNV) else (f.inf (x != y), 0)
    | .fin x m _, .inf y => if m = 0 then (f.nan, flNV) else (f.inf (x != y), 0)
    | .fin na ma ea, .fin nb mb eb => f.round md (na != nb) (ma * mb) (ea + eb)
    | _, _ => (f.nan, 0)

/-- a × b + c with one rounding; with `np` the product's sign is inverted (R86, rules 1 to 5). -/
def Fmt.fma (f : Fmt) (md : Round) (np : Bool) (a b c : Nat) : Fres :=
  match [a, b, c].find? f.isSig with
  | some x => (f.quiet x, flNV)
  | none =>
    match [a, b].find? f.isNan with
    | some x => (x, 0)
    | none =>
      let va := f.get a
      let vb := f.get b
      let bad := match va, vb with
        | .inf _, .fin _ m _ => decide (m = 0)
        | .fin _ m _, .inf _ => decide (m = 0)
        | _, _ => false
      if f.isNan c then (c, if bad then flNV else 0)
      else if bad then (f.nan, flNV)
      else
        match va, vb, f.get c with
        | .fin na ma ea, .fin nb mb eb, .fin nc mc ec =>
          let sp := (na != nb) != np
          f.roundSum md sp nc (exactAdd sp (ma * mb) (ea + eb) nc mc ec)
        | .fin _ _ _, .fin _ _ _, .inf x => (f.inf x, 0)
        | va, vb, vc =>
          let sg := fun v => match v with | .inf x => x | .fin x _ _ => x | .nan x _ => x
          let sp := (sg va != sg vb) != np
          match vc with
          | .inf x => if x = sp then (f.inf x, 0) else (f.nan, flNV)
          | _ => (f.inf sp, 0)

/-- The order of two codes that are no NaNs: by value, infinities at the ends; zeros are equal. -/
def Fmt.cmp (f : Fmt) (a b : Nat) : Ordering :=
  match f.get a, f.get b with
  | .inf x, .inf y => if x = y then .eq else if x then .lt else .gt
  | .inf x, _ => if x then .lt else .gt
  | _, .inf y => if y then .gt else .lt
  | .fin na ma ea, .fin nb mb eb =>
    let r := exactAdd na ma ea (!nb) mb eb
    if r.2.1 = 0 then .eq else if r.1 then .lt else .gt
  | _, _ => .eq

/-- The smaller (or, with `mx`, the larger) operand (R87): −0 lies below +0. -/
def Fmt.minmax (f : Fmt) (mx : Bool) (a b : Nat) : Fres :=
  match [a, b].find? f.isSig with
  | some x => (f.quiet x, flNV)
  | none =>
    if f.isNan a then (if f.isNan b then a else b, 0)
    else if f.isNan b then (a, 0)
    else
      let lt := match f.cmp a b with
        | .lt => true
        | .gt => false
        | .eq => a.testBit (f.w - 1)
      (if lt = mx then b else a, 0)

/-- A code of one IEEE format converted to another (R88). -/
def Fmt.convert (src dst : Fmt) (md : Round) (x : Nat) : Fres :=
  match src.get x with
  | .nan neg sig =>
    let fr := x % 2 ^ src.fw
    let fr' := if src.fw ≤ dst.fw then fr * 2 ^ (dst.fw - src.fw) else fr / 2 ^ (src.fw - dst.fw)
    (dst.quiet (dst.inf neg ||| fr'), if sig then flNV else 0)
  | .inf neg => (dst.inf neg, 0)
  | .fin neg m e => dst.round md neg m e

/-! ### Eight-bit formats -/

/-- E4M3 (R90): no infinities, one NaN code for each sign. -/
def e4m3Get (x : Nat) : Fv :=
  let neg := x.testBit 7
  let ex := x / 8 % 16
  let m := x % 8
  if ex = 15 ∧ m = 7 then .nan neg false
  else if ex = 0 then .fin neg m (-9)
  else .fin neg (m + 8) ((ex : Int) - 10)

/-- A finite value rounded onto the E4M3 grid (R93): in RNE 464 or more overflows, and a mode that rounds the magnitude down overflows for
no finite value (log 52). -/
def e4m3Round (md : Round) (neg : Bool) (m : Nat) (e : Int) : Fres :=
  let sg := if neg then 128 else 0
  if m = 0 then (sg, 0)
  else
    let t := topBit m e
    let q := min (max t (-6)) 8 - 3
    let (n, ex) := roundAt md neg m e q
    let tiny := decide (t < -6) && decide ((roundAt md neg m e (t - 3)).1 < 16 ∨ t + 1 < -6)
    let least := fun (k : Nat) => decide (k * 2 ^ (-e).toNat ≤ m * 2 ^ e.toNat)
    let above := !decide (m * 2 ^ e.toNat ≤ 448 * 2 ^ (-e).toNat)
    let ovf := match md with
      | .rne => least 464
      | .rz => false
      | .ru => !neg && above
      | .rd => neg && above
    if ovf then (sg + 0x7E, flOF ||| flNX)
    else if least 448 then (sg + 0x7E, if above then flNX else 0)
    else
      let code := if n < 8 then n
        else if n = 16 then ((q + 3 + 2 + 6).toNat) * 8
        else ((q + 3 + 1 + 6).toNat) * 8 + (n - 8)
      (sg + code, if ex then 0 else if tiny then flUF ||| flNX else flNX)

/-- A linear value to E4M3 (R93): ±∞ gives ±448, a NaN the NaN of its sign. -/
def toE4m3 (md : Round) (v : Fv) : Fres :=
  match v with
  | .nan neg sig => (if neg then 0xFF else 0x7F, if sig then flNV else 0)
  | .inf neg => (if neg then 0xFE else 0x7E, flOF)
  | .fin neg m e => e4m3Round md neg m e

/-- A linear value to E5M2 (R93): a NaN gives S.11111.10. -/
def toE5m2 (md : Round) (v : Fv) : Fres :=
  match v with
  | .nan neg sig => (if neg then 0xFE else 0x7E, if sig then flNV else 0)
  | .inf neg => (e5m2.inf neg, 0)
  | .fin neg m e => e5m2.round md neg m e

/-- T32 (R99): RNE(2^(f/32) × 2^23). -/
def t32 : List Nat :=
  [0x800000, 0x82CD87, 0x85AAC3, 0x88980F, 0x8B95C2, 0x8EA43A, 0x91C3D3, 0x94F4F0,
    0x9837F0, 0x9B8D3A, 0x9EF532, 0xA27043, 0xA5FED7, 0xA9A15B, 0xAD583F, 0xB123F6] ++
  [0xB504F3, 0xB8FBAF, 0xBD08A4, 0xC12C4D, 0xC5672A, 0xC9B9BE, 0xCE248C, 0xD2A81E,
    0xD744FD, 0xDBFBB8, 0xE0CCDF, 0xE5B907, 0xEAC0C7, 0xEFE4BA, 0xF5257D, 0xFA83B3]

/-- T32[f]. -/
def t32At (f : Nat) : Nat := t32.getD f 0

/-- lg8 (R92): the linear representative of a code. -/
def lg8Get (x : Nat) : Fv :=
  let l := x % 128
  if l = 0 then (if x.testBit 7 then .nan false false else .fin false 0 0)
  else .fin (x.testBit 7) (t32At (4 * ((l + 64) % 8))) ((((l + 64) / 8 : Nat) : Int) - 16 - 23)

/-- The three ways of choosing an lg8 code (R103). -/
inductive LgRound | nearest | rz | ra
  deriving DecidableEq, Repr

/-- B8[k] = T32[4k − 2]. -/
def b8 (k : Nat) : Nat := t32At (4 * k - 2)

/-- A linear value to lg8 (R103): the exact value against 24-bit thresholds of its octave. -/
def toLg8 (r : LgRound) (v : Fv) : Fres :=
  match v with
  | .nan _ _ => (0x80, 0)
  | .inf neg => ((if neg then 128 else 0) + 127, flLSAT)
  | .fin neg m e =>
    if m = 0 then (0, 0)
    else
      let ex := topBit m e
      let ge := fun t => decide (t * 2 ^ (e - (ex - 23)).natAbs ≤ m ∧ e < ex - 23) ||
        decide (t ≤ m * 2 ^ (e - (ex - 23)).toNat ∧ ex - 23 ≤ e)
      let gt := fun t => decide (t * 2 ^ (e - (ex - 23)).natAbs < m ∧ e < ex - 23) ||
        decide (t < m * 2 ^ (e - (ex - 23)).toNat ∧ ex - 23 ≤ e)
      let j := match r with
        | .nearest => ((run 1 8).filter fun k => ge (b8 k)).length
        | .rz => ((run 1 7).filter fun k => ge (t32At (4 * k))).length
        | .ra => ((run 0 8).filter fun k => gt (t32At (4 * k))).length
      let l : Int := 64 + 8 * ex + j
      let sg := if neg then 128 else 0
      if 127 < l then (sg + 127, flLSAT) else if l < 1 then (0, flLUFL) else (sg + l.toNat, 0)

/-- The lg8 choice of a VU rounding mode (R103). -/
def lgMode (md : Round) (neg : Bool) : LgRound :=
  match md with
  | .rne => .nearest
  | .rz => .rz
  | .ru => if neg then .rz else .ra
  | .rd => if neg then .ra else .rz

/-- The sign of a value. -/
def Fv.neg : Fv → Bool
  | .nan n _ => n | .inf n => n | .fin n _ _ => n

/-! ### Integers -/

/-- Clamps an integer to `w` bits, signed or not. -/
def clampTo (signed : Bool) (w : Nat) (x : Int) : Int :=
  let lo : Int := if signed then -(2 ^ (w - 1)) else 0
  let hi : Int := if signed then 2 ^ (w - 1) - 1 else 2 ^ w - 1
  if x < lo then lo else if hi < x then hi else x

/-- A float to an integer (R89): rounded in the mode, clamped; a NaN gives 0. -/
def toInt (md : Round) (signed : Bool) (w : Nat) (v : Fv) : Int × Fl :=
  match v with
  | .nan _ _ => (0, flNV)
  | .inf neg => (clampTo signed w (if neg then -(2 ^ 64) else 2 ^ 64), flNV)
  | .fin neg m e =>
    let (n, ex) := roundAt md neg m e 0
    let x : Int := if neg then -(n : Int) else n
    let y := clampTo signed w x
    (y, if y ≠ x then flNV else if ex then 0 else flNX)

/-- An integer to a float (R89). -/
def ofInt (f : Fmt) (md : Round) (x : Int) : Fres := f.round md (decide (x < 0)) x.natAbs 0

end Sys2Proof.Machine
end

