-- ==== Sys2Proof/Machine/Operands.lean ====
section
/-!
DEFINITION. Operands: the effective address (R34, R59), element types and their representation (R114), the modifier word with
its fallbacks (R43 to R46), the scalar operand of a vector word (R117), consumed-token bytes (R39, R40).
-/

namespace Sys2Proof.Machine

/-- The effective address g[BASE] + sext(OFF7, 7) × size (R34, R59). -/
def effAddr (base : Word) (o : BitVec 7) (size : Nat) : Word := base + o.signExtend 64 * w64 size

/-- Element types by code (R43): 0 fp32, 1 bf16, 2 fp16, 3 i32, 4 n32, 5 i16, 6 n16, 7 i8, 8 n8, 9 e4m3, 10 e5m2, 11 lg8. -/
abbrev Et := Nat

/-- Width in bits of an element type. -/
def etWidth (t : Et) : Nat :=
  if t = 0 ∨ t = 3 ∨ t = 4 then 32 else if t = 1 ∨ t = 2 ∨ t = 5 ∨ t = 6 then 16 else 8

/-- Is the type a signed integer? -/
def etSigned (t : Et) : Bool := t == 3 || t == 5 || t == 7
/-- Is the type an integer? -/
def etInt (t : Et) : Bool := decide (3 ≤ t) && decide (t ≤ 8)
/-- The IEEE format of fp32, bf16 and fp16. -/
def etFmt (t : Et) : Fmt := if t = 1 then bf16 else if t = 2 then fp16 else fp32

/-- The value bits of an element (R114). -/
def etBits (t : Et) (x : Elem) : Nat := x.toNat % 2 ^ etWidth t

/-- A value in the representation of its type (R114). -/
def etRep (t : Et) (v : Nat) : Elem :=
  if etSigned t then (BitVec.ofNat (etWidth t) v).signExtend 32 else BitVec.ofNat 32 (v % 2 ^ etWidth t)

/-- An element read as an integer. -/
def etVal (t : Et) (x : Elem) : Int :=
  if etSigned t then (BitVec.ofNat (etWidth t) x.toNat).toInt else etBits t x

/-- A modifier word after its fallbacks (R43 to R46). `warn` is W_MOD; `asMov` an unaccepted `vpack` or `vunpk` pair. -/
structure Mod where
  et : Et
  et2 : Et
  k : BitVec 3
  kn : Bool
  kz : Bool
  cond : Nat
  axis : Nat
  cls : BitVec 4
  rows : Nat
  stride : Nat
  asMov : Bool
  warn : Bool
  deriving DecidableEq, Repr

/-- Does a vector opcode access memory (R133)? -/
def VOp.isMem : VOp → Bool
  | .vld | .vst | .vldb | .vstadd | .vzero => true
  | _ => false

/-- The types that a group accepts in ET, and its default; none where the field is ignored (R45). -/
def etSet : VOp → Option (List Et × Et)
  | .vadd | .vsub | .vmul | .vfma | .vfms | .vmin | .vmax | .vabs | .vneg | .vadds | .vmuls | .vfmas => some ([0, 1, 2], 0)
  | .vrcp | .vrsq | .vexp2 | .vlog2 => some ([0], 0)
  | .viadd | .visub | .vimul | .vand | .vor | .vxor | .vshl | .vshr | .vsar | .vimin | .vimax | .viadds =>
    some ([3, 4, 5, 6, 7, 8], 3)
  | .vcmp | .vcmps | .vredr | .vredc => some ([0, 1, 2, 3, 4, 5, 6, 7, 8], 0)
  | .viota => some ([0, 3, 4], 3)
  | .vsel | .vmov | .vbcs | .kop | .kpop | .vget | .vrotr | .vrotc | .vbcr | .vbcc | .vshuf | .vzero => none
  | .vcvt => some ([0, 1, 2, 9, 10, 11], 0)
  | .vfix => some ([3, 4, 5, 6, 7, 8], 3)
  | .vflt => some ([0, 1, 2], 0)
  | .vpack | .vunpk => none
  | .vld | .vldb | .vst => some ([0, 1, 2, 3, 4, 5, 6, 7, 8, 9, 10, 11], 0)
  | .vstadd => some ([0, 3, 4], 0)

/-- The same for ET2 (R45). -/
def et2Set : VOp → Option (List Et × Et)
  | .vcvt => some ([0, 1, 2, 9, 10, 11], 0)
  | .vfix => some ([0, 1, 2], 0)
  | .vflt => some ([3, 4, 5, 6, 7, 8], 3)
  | _ => none

/-- The pairs that `vpack` and `vunpk` accept, narrow type first (R46). -/
def pairs : List (Et × Et) := [(5, 3), (6, 4), (7, 5), (8, 6), (1, 0), (2, 0)]

/-- The number of COND values that an opcode assigns, from 0 (R44, R116, R124, R132). -/
def condCount : VOp → Nat
  | .vcmp | .vcmps => 8
  | .vredr | .vredc | .kop => 6
  | .vunpk => 2
  | _ => 1

/-- The number of AXIS values that an opcode assigns, from 0 (R123). -/
def axisCount : VOp → Nat
  | .viota => 3
  | _ => 1

/-- A field with its fallback: the value used and whether it was replaced. -/
def pick (v : Nat) (set : Option (List Et × Et)) : Nat × Bool :=
  match set with
  | none => (v, false)
  | some (l, d) => if l.contains v then (v, false) else (d, true)

/-- A modifier word read for an opcode (R43 to R46): all fallbacks that apply are applied together. -/
def modOf (op : VOp) (w : Word) : Mod :=
  let (et, w1) := pick (wbits w 3 0) (etSet op)
  let (et2, w2) := pick (wbits w 7 4) (et2Set op)
  let k := BitVec.ofNat 3 (wbits w 10 8)
  let knBad := w.getLsbD 11 && decide (k = 0)
  let kzBad := w.getLsbD 12 && (op == .vst || op == .vstadd || op == .vzero)
  let condBad := decide (condCount op ≤ wbits w 15 13)
  let axisBad := decide (axisCount op ≤ wbits w 21 20)
  let rowsBad := VOp.isMem op && decide (16 ≤ wbits w 27 22)
  let zeroBad := decide (wbits w 63 48 ≠ 0) || decide (wbits w 31 28 ≠ 0)
  let movBad := (op == .vpack && !pairs.contains (wbits w 3 0, wbits w 7 4)) ||
    (op == .vunpk && !pairs.contains (wbits w 7 4, wbits w 3 0))
  { et := et
    et2 := et2
    k := k
    kn := w.getLsbD 11 && !knBad
    kz := w.getLsbD 12 && !kzBad
    cond := if condBad then 0 else wbits w 15 13
    axis := if axisBad then 0 else wbits w 21 20
    cls := BitVec.ofNat 4 (wbits w 19 16)
    rows := if rowsBad then 16 else wbits w 27 22 % 16 + 1
    stride := wbits w 47 32
    asMov := movBad
    warn := w1 || w2 || knBad || kzBad || condBad || axisBad || rowsBad || zeroBad || movBad }

/-- The element width in bytes of a memory word (R133). -/
def memBytes (op : VOp) (m : Mod) : Nat := if op = .vstadd ∨ op = .vzero then 4 else etWidth m.et / 8

/-- The scalar s of R117, in the type ET. -/
def scalarOf (t : Et) (gs : Word) : Elem := BitVec.ofNat 32 (gs.toNat % 2 ^ etWidth t)

/-- The consumed-token bytes CT0, CT1, CT2 (R39). -/
def tokenBytes (b : Word) : List (BitVec 8) := [b.extractLsb' 40 8, b.extractLsb' 48 8, b.extractLsb' 56 8]

/-- The consumed slots in the order CT0, CT1, CT2; a byte that names slot 63 is ignored (R40). -/
def consumed (b : Word) : List (BitVec 6) :=
  ((tokenBytes b).filter fun t => t.getLsbD 7 && t.setWidth 6 != 63).map (·.setWidth 6)

/-- A valid byte names slot 63 (R40). -/
def namesSlot63 (b : Word) : Bool := (tokenBytes b).any fun t => t.getLsbD 7 && t.setWidth 6 == 63

end Sys2Proof.Machine
end

