-- ==== Sys2Proof/Machine/Filter.lean ====
section
/-!
DEFINITION. Filter: regions and their descriptors (R206, R207), cells and taps (R208), deposits (R211 to R213), ticks (R214,
R216) and the lookup of a cell by its window word (R209, R210).
-/

namespace Sys2Proof.Machine

/-- A cell (R208): signed values; `acc` 48 bits, `cnt` 16, `gen` 32. -/
structure Cell where
  y : Int
  y1 : Int
  y2 : Int
  x1 : Int
  x2 : Int
  acc : Int
  cnt : Nat
  gen : Nat
  deriving DecidableEq, Repr

/-- A two's complement field of `n` bits. -/
def signed (n x : Nat) : Int := (BitVec.ofNat n x).toInt
/-- An integer as `n` bits. -/
def unsigned (n : Nat) (x : Int) : Nat := (x % 2 ^ n).toNat

/-- Reads the 32 bytes of a backing entry (R208). -/
def cellOf (l : List Byte) : Cell where
  y := signed 32 (fieldLE l 0 4)
  y1 := signed 32 (fieldLE l 4 4)
  y2 := signed 32 (fieldLE l 8 4)
  x1 := signed 32 (fieldLE l 12 4)
  x2 := signed 32 (fieldLE l 16 4)
  acc := signed 48 (fieldLE l 20 6)
  cnt := fieldLE l 26 2
  gen := fieldLE l 28 4

/-- The 32 bytes of a backing entry. -/
def cellBytes (c : Cell) : List Byte :=
  leBytes 4 (unsigned 32 c.y) ++ leBytes 4 (unsigned 32 c.y1) ++ leBytes 4 (unsigned 32 c.y2) ++
  leBytes 4 (unsigned 32 c.x1) ++ leBytes 4 (unsigned 32 c.x2) ++ leBytes 6 (unsigned 48 c.acc) ++
  leBytes 2 c.cnt ++ leBytes 4 c.gen

/-- The value a tap read returns (R208). -/
def tapValue (c : Cell) (t : BitVec 3) : Word :=
  match t with
  | 0 => BitVec.ofInt 64 c.y
  | 1 => BitVec.ofInt 64 c.y1
  | 2 => BitVec.ofInt 64 c.y2
  | 3 => BitVec.ofInt 64 c.x1
  | 4 => BitVec.ofInt 64 c.x2
  | 5 => BitVec.ofInt 64 c.acc
  | 6 => w64 c.cnt
  | 7 => w64 c.gen

/-! ### Descriptors (R206) -/

/-- WIN, BACK, NCELL, CFG and the other fields of a descriptor. -/
def dWin (d : List Byte) : Nat := fieldLE d 0 8
@[inherit_doc dWin] def dBack (d : List Byte) : Nat := fieldLE d 8 8
@[inherit_doc dWin] def dCells (d : List Byte) : Nat := fieldLE d 0x10 4
@[inherit_doc dWin] def dCfg (d : List Byte) : Nat := fieldLE d 0x14 4
@[inherit_doc dWin] def dKcnt (d : List Byte) : Nat := fieldLE d 0x18 2
@[inherit_doc dWin] def dDead (d : List Byte) : Nat := fieldLE d 0x1A 2
/-- A coefficient as a 20-bit integer (R106, R214). -/
def dCoef (d : List Byte) (o : Nat) : Int := signed 20 (fieldLE d o 4)
/-- PLACE, ORDER, F, RND, XF, TMODE, CLEAR. -/
def dPlace (d : List Byte) : Nat := bits (dCfg d) 1 0
@[inherit_doc dPlace] def dOrder (d : List Byte) : Bool := (dCfg d).testBit 2
@[inherit_doc dPlace] def dF (d : List Byte) : Nat := bits (dCfg d) 7 3
@[inherit_doc dPlace] def dRnd (d : List Byte) : Bool := (dCfg d).testBit 8
@[inherit_doc dPlace] def dXf (d : List Byte) : Nat := bits (dCfg d) 10 9
@[inherit_doc dPlace] def dTmode (d : List Byte) : Bool := (dCfg d).testBit 11
@[inherit_doc dPlace] def dClear (d : List Byte) : Bool := (dCfg d).testBit 12

/-- A coefficient word whose bits [31:20] do not all equal bit 19 (R207). -/
def coefBad (d : List Byte) (o : Nat) : Bool :=
  let w := BitVec.ofNat 32 (fieldLE d o 4)
  (w.setWidth 20).signExtend 32 != w

/-- Is a descriptor malformed (R207)? -/
def dMalformed (d : List Byte) : Bool :=
  fieldLE d 0x1C 4 != 0 || fieldLE d 0x34 12 != 0 || bits (dCfg d) 31 13 != 0 || decide (2 ≤ dPlace d) || dXf d == 3 ||
  dCells d == 0 || dWin d % 4 != 0 || dBack d % 32 != 0 || (dTmode d && dKcnt d == 0) ||
  [0x20, 0x24, 0x28, 0x2C, 0x30].any (coefBad d)

/-! ### The tick and the deposit -/

/-- An exact `v / 2^k` rounded to the nearest, ties to even. -/
def rneShift (v : Int) (k : Nat) : Int :=
  let r := roundAt .rne (decide (v < 0)) v.natAbs (-(k : Int)) 0
  if v < 0 then -(r.1 : Int) else r.1

/-- `sat32` of R28. -/
def sat32 (x : Int) : Int := clampTo true 32 x

/-- R214: one generation of a cell, and whether something saturated. -/
def tickCell (d : List Byte) (c : Cell) : Cell × Bool :=
  let x0 := c.acc
  let first := dCoef d 0x20 * x0 + dCoef d 0x24 * c.x1 - dCoef d 0x2C * c.y
  let v := if dOrder d then first + dCoef d 0x28 * c.x2 - dCoef d 0x30 * c.y1 else first
  let q := if dRnd d then v.tdiv (2 ^ 18) else rneShift v 18
  let q := if dDead d ≠ 0 ∧ x0 = 0 ∧ q.natAbs ≤ dDead d then 0 else q
  let yn := sat32 q
  let xn := sat32 x0
  ({ y := yn, y1 := c.y, y2 := c.y1, x1 := xn, x2 := c.x1, acc := 0, cnt := 0, gen := (c.gen + 1) % 2 ^ 32 },
    yn != q || xn != x0)

/-- The input transform of R212: the value and whether it saturated. -/
def transform (d : List Byte) (s : Int) : Int × Bool :=
  if dXf d = 1 then
    let t := rneShift (s * s) (dF d)
    if 2 ^ 31 - 1 < t then (2 ^ 31 - 1, true) else (t, false)
  else if dXf d = 2 then
    (if s.natAbs = 2 ^ 31 then (2 ^ 31 - 1, true) else ((s.natAbs : Int), false))
  else (s, false)

/-- R212, R216: a sample applied to a cell: the cell, SAT of the sample's transform, OVERCOUNT, and, where the cell ticked, SAT of
the tick. -/
def depositCell (d : List Byte) (c : Cell) (s : Int) : Cell × Bool × Bool × Option Bool :=
  let (t, sat) := transform d s
  if c.cnt = 65535 then (c, sat, true, none)
  else
    let c' := { c with acc := c.acc + t, cnt := c.cnt + 1 }
    if dTmode d ∧ c'.cnt = dKcnt d then
      let (c2, sat2) := tickCell d c'
      (c2, sat, false, some sat2)
    else (c', sat, false, none)

/-! ### Registered regions -/

/-- The key that a leaf gives a virtual address, whatever the permissions. -/
def Leaf.key (l : Leaf) (va : Nat) : Option Nat :=
  if l.tgt = 0 then some (l.phys va) else if l.tgt = 1 then some (2 ^ 48 + bits (l.phys va) 27 0) else none

/-- A home as a number: a bank, or 128 plus a stack (R206). -/
def homeNo (key : Nat) : Nat := if isHbm key then 128 + stackOf key else spineBank key

/-- The registered region of a partition that covers the window word at a key, and the cell (R209): its home holds both. -/
def State.regionAt (s : State) (part : BitVec 4) (key : Nat) : Option (Region × Nat) :=
  (s.regions.filter (·.part == part)).findSome? fun r => (r.cells.findIdx? (·.1 == key)).map fun i => (r, i)

/-- The key of the backing entry of cell `i`. -/
def Region.back (r : Region) (i : Nat) : Nat := (r.cells.getD i (0, 0)).2

/-- Replaces a region. -/
def State.setRegion (s : State) (r : Region) : State :=
  { s with regions := s.regions.map fun q => if q.part == r.part && q.win == r.win then r else q }

/-- The chunk state after a stack unit wrote these HBM keys (R200): their stripes are parity-pending, the changed chunks hold the new
data and the writer's tag; parity follows with the seal. -/
def Hbm.unitWrote (h : Hbm) (tag : BitVec 4) (ks : List Nat) : Hbm :=
  let sids := (ks.map stripeIdOf).eraseDups
  let gone := ((chunksOf ks).filter fun c => h.chan (c.1 / 50331648) c.2 != .failed).map fun c => chunkId c.1 c.2
  { h with
    crcBad := h.crcBad.filter (!gone.contains ·)
    stale := h.stale.filter (!gone.contains ·)
    pending := h.pending ++ sids.filter fun i => !h.pending.contains i
    tags := (chunksOf ks ++ sids.map fun i => (i, parityOf i)).foldl (fun t c => put t (chunkId c.1 c.2) tag) h.tags }

/-- A write of the stack unit or BAU of bytes with their keys (R189, R200); the caller has checked `writeErr`. -/
def State.unitWriteAll (s : State) (tag : BitVec 4) (l : List (Nat × Byte)) : State :=
  let ks := l.map (·.1)
  let s1 := { s with mem := l.foldl (fun m (c : Nat × Byte) => Memory.set m c.1 c.2) s.mem }
  match l with
  | [] => s
  | (k0, _) :: _ => if isHbm k0 then { s1 with hbm := s.hbm.unitWrote tag ks } else s1.freshWords ks

/-- The same for consecutive bytes. -/
def State.unitWrite (s : State) (tag : BitVec 4) (key : Nat) (l : List Byte) : State := s.unitWriteAll tag ((run key l.length).zip l)

/-- The chunks that a unit's write without a read rebuilds are reported (R196, R365). -/
def State.unitRebuilt (s : State) (ks : List Nat) : State :=
  match ks with
  | [] => s
  | k0 :: _ =>
    if isHbm k0 then ((s.hbm.rebuilt ks).filter (chunksOf ks).contains).foldl (fun s c => s.reportChunk 0x38 c.1 c.2) s else s

/-- A stripe is sealed (R200): its parity chunk is fresh, but where it and another chunk were unavailable (R365), and stale where its
channel retrains (R197). -/
def Hbm.sealed (h : Hbm) (sid : Nat) : Hbm :=
  let par := chunkId sid (parityOf sid)
  let on := h.chan (sid / 50331648) (parityOf sid)
  let fresh := decide ((h.missing sid).length ≤ 1) || !h.unavailable sid (parityOf sid)
  let gone := fresh && on != .failed
  { h with
    pending := h.pending.filter (· != sid)
    crcBad := h.crcBad.filter fun c => !(gone && c == par)
    stale := (h.stale.filter fun c => !(gone && c == par)) ++
      (if on == .retraining && (gone || !h.stale.contains par) then [par] else []) }

/-- Sets sticky bits of a region at a home; the first setting in a tick interval is an event (R212). -/
def State.sticky (s : State) (p : Nat) (r : Region) (h : Nat) (sat ovf : Bool) (tag : LoopTag) : State :=
  let ev := fun (s : State) code => s.emit (some p) r.part p .bank code tag (r.win.toNat / 4)
  let s1 := if sat && !r.seenSat.contains h then ev s 0x20 else s
  let s2 := if ovf && !r.seenOver.contains h then ev s1 0x21 else s1
  let add := fun (b : Bool) (l : List Nat) => if b && !l.contains h then h :: l else l
  s2.setRegion { r with
    sat := add sat r.sat
    ovf := add ovf r.ovf
    seenSat := add sat r.seenSat
    seenOver := add ovf r.seenOver }

/-- A home starts a new tick interval of a region. -/
def State.newInterval (s : State) (r : Region) (h : Nat) : State :=
  s.setRegion { r with seenSat := r.seenSat.filter (· != h), seenOver := r.seenOver.filter (· != h) }

/-- The region as it stands. -/
def State.regionOf (s : State) (part : BitVec 4) (win : Word) : Option Region :=
  s.regions.find? fun r => r.part == part && r.win == win

/-- FNOREG (R213): the deposit is discarded and reported; `pay` is the window word address, in words. -/
def State.noReg (s : State) (p : Nat) (part : BitVec 4) (pay : Nat) (tag : LoopTag) : State :=
  s.emit (some p) part p .bank 0x22 tag pay

/-- The first byte of a backing entry with an error that its home cannot correct. -/
def State.cellBad (s : State) (k : Nat) : Option Nat := (run k 32).find? fun j => s.unitMeet j == .uncorr

/-- Must a deposit or tick at a backing entry wait (R197)? A stack unit reads its own pending writes. -/
def State.cellWaits (s : State) (k : Nat) : Bool := (run k 32).any fun j => s.unitMeet j == .wait

/-- What a tick did with a cell's entry: it wrote it, it read it and left it, or it did not reach it. -/
inductive TickDid
  | wrote | read | none
  deriving DecidableEq, Repr

/-- Ticks cell `i` of a region (R214, R226). An uncorrectable error leaves its entry as it is, and so does a unit that is lent out
(R348). -/
def State.tickAt (s : State) (p : Nat) (r : Region) (i : Nat) (tag : LoopTag) : TickDid × State :=
  let k := r.back i
  if s.lentOut k then (.none, s)
  else match s.cellBad k with
    | some b => (.read, s.reportKey 0x39 b tag)
    | none =>
      let s := s.unitCorr (run k 32) tag
      let (c, sat) := tickCell r.desc (cellOf (Memory.gets s.mem k 32))
      let s := s.unitWrite r.part k (cellBytes c)
      match s.regionOf r.part r.win with
      | some r' => (.wrote, s.sticky p r' (homeNo k) sat false tag)
      | none => (.wrote, s)

/-- The region's tick interval at a home ends with a tick there, which belongs to the interval that it begins, as an `ftick`'s does: the
model's choice (log 45). -/
def State.nextInterval (s : State) (p : Nat) (r : Region) (h : Nat) (sat : Bool) (tag : LoopTag) : State :=
  let again := fun (s : State) (f : Region → State) => match s.regionOf r.part r.win with
    | some r' => f r'
    | none => s
  let s := again s fun r' => s.newInterval r' h
  again s fun r' => s.sticky p r' h sat false tag

/-- The backing entry of a window word lies in a unit that is lent out, where every access is refused with XPERM (R348). -/
def State.cellLent (s : State) (part : BitVec 4) (key : Nat) : Bool :=
  match s.regionAt part key with
  | some (r, i) => s.lentOut (r.back i)
  | none => false

/-- A deposit of core `p` at the window word `key` of a partition (R211 to R213, R216). The caller has checked `cellLent`. -/
def State.deposit (s : State) (p : Nat) (part : BitVec 4) (key pay : Nat) (x : BitVec 32) (tag : LoopTag) : State :=
  match s.regionAt part key with
  | none => s.noReg p part pay tag
  | some (r, i) =>
    let k := r.back i
    match s.cellBad k with
    | some b => s.reportKey 0x39 b tag
    | none =>
      let s := s.unitCorr (run k 32) tag
      let (c, sat, ovf, ticked) := depositCell r.desc (cellOf (Memory.gets s.mem k 32)) x.toInt
      let s := s.unitWrite part k (cellBytes c)
      let s := s.sticky p r (homeNo k) sat ovf tag
      match ticked with
      | some sat => s.nextInterval p r (homeNo k) sat tag
      | none => s

/-- Must a deposit at a window word wait? -/
def State.windowWaits (s : State) (part : BitVec 4) (key : Nat) : Bool :=
  match s.regionAt part key with
  | some (r, i) => s.cellWaits (r.back i)
  | none => false

/-- A tap read (R222, R223): a wait, no region, a unit that is lent out (R348), an uncorrectable error, or the cell. -/
inductive TapRead
  | wait | noRegion | lent | bad (key : Nat) | cell (c : Cell) (key : Nat)
  deriving DecidableEq, Repr

/-- Reads the cell of the window word at a key. -/
def State.readCell (s : State) (part : BitVec 4) (key : Nat) : TapRead :=
  match s.regionAt part key with
  | none => .noRegion
  | some (r, i) =>
    let k := r.back i
    if s.lentOut k then .lent
    else if (run k 32).any fun j => s.meet j == .wait then .wait
    else match s.firstMeet .uncorr (run k 32) with
      | some b => .bad b
      | none => .cell (cellOf (Memory.gets s.mem k 32)) k

/-- The home of a window word (R224): the bank, or the stack unit of the stack. A window word of leased memory has no region and no home
of this package. -/
def windowHome (key : Nat) : Home :=
  if isHbm key then .stack (stackOf key) 2 else if isSpine key then .bank (spineBank key) else .unit

/-- The home of a place (R227). -/
def Place.home : Place → Home
  | .mem k => homeOf k
  | .window _ k => windowHome k
  | .mmio _ => .unit
  | .peer va => .peer (bits va 45 36)
  | .lease e _ => .peer (1024 + e)

end Sys2Proof.Machine
end

