-- ==== Sys2Proof/Machine/Fabric.lean ====
section
/-!
DEFINITION. Fabric: atomic operations at a home (R190), completion rings (R338 to R341), export windows on both sides (R343 to
R345), leases as an access path (R348), and the host's view of HBM (R337).
-/

namespace Sys2Proof.Machine

/-! ### Operations at a home -/

/-- op(old, b, x) of R190, by OP − 0x20. -/
def atomicOp (op : BitVec 4) (old b x : Word) : Word :=
  match op with
  | 0 => old + b
  | 1 => old &&& b
  | 2 => old ||| b
  | 3 => old ^^^ b
  | 4 => if old.slt b then old else b
  | 5 => if old.slt b then b else old
  | 6 => b
  | 7 => if old = x then b else old
  | 8 => if old.ult b then old else b
  | 9 => if old.ult b then b else old
  | _ => old

/-- R138: the addition of `vstadd` at a home: wrapping, or FP32 in RNE with every NaN result 0x7FC0_0000. -/
def vaddOp (fp : Bool) (old v : Elem) : Elem :=
  if fp then
    let r := (fp32.add .rne old.toNat v.toNat).1
    BitVec.ofNat 32 (if fp32.isNan r then fp32.nan else r)
  else old + v

/-! ### Waymarks -/

/-- TARGET, COUNT, GEN and AUX of a waymark (R252). -/
structure Waymark where
  target : Nat
  count : Nat
  gen : Nat
  aux : Nat
  deriving DecidableEq, Repr

/-- Reads a waymark at a key. -/
def State.waymark (s : State) (k : Nat) : Waymark := ⟨s.peek k 4, s.peek (k + 4) 4, s.peek (k + 8) 4, s.peek (k + 12) 4⟩

/-- The 16 bytes of a waymark. -/
def Waymark.bytes (w : Waymark) : List Byte := leBytes 4 w.target ++ leBytes 4 w.count ++ leBytes 4 w.gen ++ leBytes 4 w.aux

/-- An arrival of `n` bytes (R253), and whether it overshoots. -/
def Waymark.arrive (w : Waymark) (n : Nat) : Waymark × Bool :=
  let c := w.count + n
  if w.target ≠ 0 ∧ w.target ≤ c then
    let ovf := decide (w.target < c)
    ({ w with
        count := c % w.target
        gen := (w.gen + c / w.target) % 2 ^ 32
        aux := if ovf then w.aux % 2 ^ 31 + 2 ^ 31 else w.aux }, ovf)
  else ({ w with count := c % 2 ^ 32 }, false)

/-- The closure of a gather or scatter with `n` packed rows (R257). -/
def Waymark.close (w : Waymark) (n : Nat) : Waymark :=
  { w with count := 0, gen := (w.gen + 1) % 2 ^ 32, aux := n % 2 ^ 31 }

/-- An arrival at the waymark at key `k`, whose address is `va`, for core `src` of a partition (R252, R253); an overshoot is
reported as WOVER with the loop fields `tag` (R321). -/
def State.arriveAt (s : State) (src : Nat) (part : BitVec 4) (va k n : Nat) (tag : LoopTag) : State :=
  let (w, ovf) := (s.waymark k).arrive n
  let s := s.store part k w.bytes
  if ovf then s.emit (some src) part src .ce 0x23 tag (bits va 40 4) else s

/-! ### Completion rings -/

/-- log2 of a ring's entries (R339): values outside 6 to 16 are read as 6. -/
def Part.cqSize (q : Part) : Nat := 2 ^ (if 6 ≤ q.cqLog ∧ q.cqLog ≤ 16 then q.cqLog else 6)
/-- The ring is full. -/
def Part.cqFull (q : Part) : Bool := decide (q.cqSize ≤ q.cqHead - q.cqTail)

/-- The 16 bytes of an entry posted at TIME `ts` (R340). -/
def cqBytes (e : CqEntry) (ts : Nat) : List Byte :=
  leBytes 8 e.subj.toNat ++
  leBytes 8 (ts % 2 ^ 48 * 2 ^ 16 + e.cause.toNat * 2 ^ 9 + (if e.recfail then 2 ^ 8 else 0) + e.kind.toNat * 2 ^ 4 + e.st.toNat)

/-- Writes an entry at CQHEAD and sends the vector (R338 to R340), or has it wait where its home must (R197, R200). An entry that its home
cannot take (R348, R365) is posted with its bytes unwritten, and an error is reported (log 49). -/
def State.cqWrite (s : State) (n : BitVec 4) (e : CqEntry) : State :=
  let q := s.part n
  let posted := fun (s : State) =>
    let s := s.setPart n { q with cqHead := q.cqHead + 1 }
    if q.cqIen then s.sendMsi n.toNat else s
  match s.ringWrite 0 n (q.cqBase.toNat + 16 * (q.cqHead % q.cqSize)) (cqBytes e s.time[0]) with
  | .wait => s.setPart n { q with cqWait := q.cqWait ++ [e] }
  | .lost s' (some b) => (posted s').reportKey 0x39 b
  | .lost s' none => posted s'
  | .done s' corr => corr.foldl (fun s c => s.reportChunk 0x38 c.1 c.2) (posted s')

/-- Posts an entry (R339, R341): nowhere while EN = 0; a KIND 3 entry that meets a full ring is dropped and counted; other
kinds wait in order. -/
def State.cqPost (s : State) (n : BitVec 4) (e : CqEntry) : State :=
  let q := s.part n
  if !q.cqEn then s
  else if e.kind = 3 ∧ q.cqFull = true then s.setPart n { q with cqDrop := q.cqDrop + 1 }
  else if q.cqFull ∨ q.cqWait ≠ [] then s.setPart n { q with cqWait := q.cqWait ++ [e] }
  else s.cqWrite n e

/-- The oldest waiting entry is posted once the ring has room (R341) and its home need not wait. -/
def State.cqDrain (s : State) (n : BitVec 4) : State :=
  let q := s.part n
  match q.cqWait with
  | [] => s
  | e :: t =>
    if !q.cqEn then s.setPart n { q with cqWait := t }
    else if q.cqFull then s
    else
      let s' := (s.setPart n { q with cqWait := [] }).cqWrite n e
      if (s'.part n).cqWait = [] then s'.setPart n { s'.part n with cqWait := t } else s

/-! ### Export windows -/

/-- An export entry in parts (R343). -/
structure Export where
  v : Bool
  rd : Bool
  wr : Bool
  ats : Bool
  tgt : Nat
  type : Nat
  part : BitVec 4
  rpart : BitVec 4
  addr : Nat
  low : Nat
  deriving DecidableEq, Repr

/-- Reads an entry. -/
def Export.of (w : Word) : Export where
  v := w.getLsbD 63
  rd := w.getLsbD 62
  wr := w.getLsbD 61
  ats := w.getLsbD 60
  tgt := wbits w 59 58
  type := wbits w 57 56
  part := w.extractLsb' 52 4
  rpart := w.extractLsb' 48 4
  addr := wbits w 47 26
  low := wbits w 25 0

/-- Is an entry malformed (R343)? -/
def Export.bad (e : Export) : Bool :=
  e.low != 0 || e.tgt == 3 || decide (2 ≤ e.type) || (e.type == 1 && e.tgt == 2) ||
  (e.tgt == 0 && decide (Config.hbmBytes < (e.addr + 1) * 2 ^ 26)) ||
  (e.tgt == 1 && decide (4 ≤ e.addr)) ||
  (e.tgt == 2 && decide (640 ≤ e.addr))

/-- What reading an export entry gives: a wait, the refusing cause, or the entry. -/
inductive Entry
  | wait | refused (c : Cause) (s : State) | ok (e : Export) (s : State)

/-- Where the entry of an export address stands. -/
def State.entryKey (s : State) (va : Nat) : Nat := wbits s.exbase 38 13 * 8192 + 8 * bits va 35 26

/-- Reads the entry that an export address names, as the access arrives at die `d` (R343): the map is HBM of this package, with its errors
(R196) and its lent-out units (R348); a map beyond HBM holds no entry. -/
def State.exportEntry (s : State) (d va : Nat) : Entry :=
  let k := s.entryKey va
  let ks := run k 8
  if !s.exbase.getLsbD 0 || decide (Config.hbmBytes < k + 8) then .refused .xmiss s
  else if s.lentOut k then .refused .xperm s
  else if s.mustWait ks then .wait
  else match s.firstMeet .uncorr ks with
    | some b => .refused .memerr (s.atHome d (homeOf k) (·.reportKey 0x39 b))
    | none => .ok (Export.of (w64 (s.peek k 8))) (s.atHome d (homeOf k) (·.reportCorr ks))

/-- The key of the byte that an export address reaches through an entry. -/
def Export.key (e : Export) (va : Nat) : Nat :=
  let off := bits va 25 0
  if e.tgt = 2 then spadKey e.addr off
  else if e.tgt = 1 then 2 ^ 48 + (e.addr * 2 ^ 26 + off) else e.addr * 2 ^ 26 + off

/-- The completer's checks of an access (R343, R345), in order: the cause, or the place. -/
def State.exportCheck (s : State) (e : Export) (va : Nat) (rpart : BitVec 4) (a : RKind) : Except Cause Place :=
  let off := bits va 25 0
  let key := e.key va
  if !e.v || e.bad then .error .xmiss
  else if (if a.ats then !e.ats else (a.rd && !e.rd) || (a.wr && !e.wr)) || e.rpart != rpart then .error .xperm
  else if a.wmk ∧ e.tgt ≠ 2 then .error .engine
  else if e.tgt = 2 ∧ 0xC0000 < off + a.n then .error .xmiss
  else if e.tgt = 1 ∧ (run (e.addr * 2 ^ 26 + off) a.n).any fun o => !(s.part e.part).hasBank (bits o 27 21) then .error .xperm
  else if e.tgt = 0 ∧ (run key a.n).any s.lentOut then .error .xperm
  else if e.type = 1 then (if !a.win || a.ats then .error .filter else .ok (.window va key))
  else .ok (.mem key)

/-- The place that orders an access (R227): for an export address of this package the home of the target byte (R343), for every other
address the place itself. -/
def State.real (s : State) (pl : Place) : Place :=
  match pl with
  | .peer va =>
    let e := Export.of (w64 (s.peek (s.entryKey va) 8))
    if BitVec.ofNat 10 (bits va 45 36) != s.pkgid || !s.exbase.getLsbD 0 || !e.v || e.bad then pl
    else if e.type = 1 then .window va (e.key va) else .mem (e.key va)
  | _ => pl

/-- The partition whose regions cover a place (R209, R343): for an export address of this package the partition of the entry. -/
def State.regionPart (s : State) (part : BitVec 4) (pl : Place) : BitVec 4 :=
  match pl with
  | .peer va => (Export.of (w64 (s.peek (s.entryKey va) 8))).part
  | _ => part

/-- What a served access returns: refused with a cause, or the bytes read; with the state. -/
inductive Served
  | refused (c : Cause) (s : State)
  | done (bytes : List Byte) (s : State)
  | wait

/-- Serves a request at a checked local place for a requester partition (R343). Into a window a write is one deposit for each
aligned word, a read returns Y (R211). `owner` is the local partition that owns the target, `va` the address as the requester names
it. The spec names no core for a deposit that arrives here: SRC and the core whose buffer takes its FSAT, FOVER and FNOREG records,
and the window word address that FNOREG shows, are free, and the records have the loop fields of no word (log 55). -/
def State.serveAt (s : State) (owner rpart : BitVec 4) (va : Nat) (pl : Place) (req : PeerReq) : Served :=
  match pl with
  | .mem k =>
    let step := fun (f : State → State) => (match s.firstMeet .uncorr (run k 16) with
      | some b => Served.refused .memerr (s.reportKey 0x39 b)
      | none => .done [] (f (s.reportCorr (run k 16))))
    let rdN := fun n => (if s.mustWait (run k n) then Served.wait
      else match s.firstMeet .uncorr (run k n) with
        | some b => .refused .memerr (s.reportKey 0x39 b)
        | none => .done (Memory.gets s.mem k n) (s.reportCorr (run k n)))
    let wrL := fun (l : List Byte) (s' : State) => (if s.writeWaits (run k l.length) then Served.wait
      else match s.writeErr (run k l.length) with
        | some b => .refused .memerr (s'.reportKey 0x39 b)
        | none => .done [] (s'.store rpart k l))
    (match req with
      | .read n => rdN n
      | .write l => wrL l s
      | .atomic op b x =>
        (match rdN 8 with
          | .done old s' =>
            (match wrL (leBytes 8 (atomicOp op (w64 (leNat old)) b x).toNat) s' with
              | .done _ s2 => .done old s2
              | r => r)
          | r => r)
      | .vadd fp v =>
        (match rdN 4 with
          | .done old s' =>
            (match wrL (leBytes 4 (vaddOp fp (BitVec.ofNat 32 (leNat old)) v).toNat) s' with
              | .done _ s2 => .done [] s2
              | r => r)
          | r => r)
      | .tap _ => .refused .filter s
      | .arrival n => step (·.arriveAt (spadCore k) owner va k n LoopTag.none)
      | .closure n => step (fun s => s.store owner k ((s.waymark k).close n).bytes))
  | .window _ k =>
    (match req with
      | .write l =>
        if (List.range (l.length / 4)).any fun i => s.cellLent owner (k + 4 * i) then .refused .xperm s
        else if (List.range (l.length / 4)).any fun i => s.windowWaits owner (k + 4 * i) then .wait
        else .done [] (((List.range (l.length / 4)).foldl (fun s i =>
          { s with free := s.free + 2 }.deposit ((Config.freeWord (s.free + 1)).toNat % 640) owner (k + 4 * i)
            ((Config.freeWord s.free).toNat % 2 ^ 37)
            (BitVec.ofNat 32 (fieldLE l (4 * i) 4)) LoopTag.none) s))
      | .read n =>
        (match s.readCell owner k with
          | .wait => .wait
          | .noRegion => .refused .filter s
          | .lent => .refused .xperm s
          | .bad b => .refused .memerr (s.reportKey 0x39 b)
          | .cell c b => .done (leBytes n (unsigned 32 c.y)) (s.reportCorr (run b 32)))
      | .tap t =>
        (match s.readCell owner k with
          | .wait => .wait
          | .noRegion => .refused .filter s
          | .lent => .refused .xperm s
          | .bad b => .refused .memerr (s.reportKey 0x39 b)
          | .cell c b => .done (leBytes 8 (tapValue c t).toNat) (s.reportCorr (run b 32)))
      | _ => .refused .filter s)
  | _ => .refused .xmiss s

/-- A served access whose state changes by `f`. -/
def Served.via (r : Served) (f : State → State) : Served :=
  match r with
  | .refused c s => .refused c (f s)
  | .done l s => .done l (f s)
  | .wait => .wait

/-- A request that arrived at die `d` is served at its place: the messages to the home and back carry TIME (R319, R336). -/
def State.serveFrom (s : State) (d : Nat) (owner rpart : BitVec 4) (va : Nat) (pl : Place) (req : PeerReq) : Served :=
  let e := (pl.home.die).getD d
  ((s.cross d e).serveAt owner rpart va pl req).via (·.cross e d)

/-- R343: a request that arrives at die `d` through the export map of this package. -/
def State.exportServe (s : State) (d va : Nat) (rpart : BitVec 4) (req : PeerReq) : Served :=
  match s.exportEntry d va with
  | .wait => .wait
  | .refused c s' => .refused c s'
  | .ok e s' =>
    match s'.exportCheck e va rpart (reqKind va req) with
    | .error c => .refused c s'
    | .ok pl => s'.serveFrom d e.part rpart va pl req

/-- R343: a request from outside. One that runs past a 64 MiB unit names two entries, each of which serves its bytes, if both do; one past the
last entry, and one that is no read or write, names no place: XMISS, which is the model's choice (log 60). -/
def State.exportRequest (s : State) (va : Nat) (rpart : BitVec 4) (req : PeerReq) : Served :=
  let room := 2 ^ 26 - bits va 25 0
  let both := fun (a b : PeerReq) => (match s.exportServe 0 va rpart a with
    | .done x s1 => (match s.exportServe 0 (va + room) rpart b with
      | .done _ _ => (match s1.exportServe 0 (va + room) rpart b with
        | .done y s2 => Served.done (x ++ y) s2
        | r => r)
      | r => r)
    | r => r)
  if (reqKind va req).n ≤ room then s.exportServe 0 va rpart req
  else if bits va 35 26 = 1023 then .refused .xmiss s
  else match req with
    | .read n => both (.read room) (.read (n - room))
    | .write l => both (.write (l.take room)) (.write (l.drop room))
    | _ => .refused .xmiss s

/-- R348: a lease access at the lender, which carries the time it arrives at; one that runs beyond the unit is refused too. -/
def State.leaseServe (s : State) (e off : Nat) (req : PeerReq) : Served :=
  let l := s.leases[e % 64]'(Nat.mod_lt _ (by decide))
  if !l.role ∧ (l.st = 2 ∨ l.st = 3) ∧ s.time[0] < l.deadline.toNat ∧ off + (reqKind 0 req).n ≤ 2 ^ 31 then
    s.serveFrom 0 l.part l.part 0 (.mem (l.base.toNat + off)) req
  else .refused .lease s

/-- Doublewords that the answer to a request holds. -/
def reqWords (req : PeerReq) : Nat := match req with | .read n => (n + 7) / 8 | _ => 1

/-- Does a message use an option of UALink that this package has (R342): reads, writes of 4 to 256 bytes, and 8-byte atomics? A `vstadd`
is a 4-byte atomic, which no package has. -/
def hasOption (req : PeerReq) : Bool :=
  match req with
  | .write l => decide (4 ≤ l.length) && decide (l.length ≤ 256)
  | .vadd _ _ => false
  | _ => true

/-- A message that uses an absent option is discarded and counted at its port (R342); which port that is, is free. -/
def State.discard (s : State) : State :=
  let i := (Config.freeWord s.free).toNat % 16
  { s with
    free := s.free + 1
    portErrs := s.portErrs.set i (s.portErrs[i]'(Nat.mod_lt _ (by decide)) + 1) (Nat.mod_lt _ (by decide)) }

/-- The address of an access that leaves for another package: of its export window, or at a lender. -/
def State.farAddr (s : State) (pl : Place) : Option Nat :=
  match pl with
  | .peer va => if BitVec.ofNat 10 (bits va 45 36) = s.pkgid then none else some va
  | .lease e off => some (e * 2 ^ 31 + off)
  | _ => none

/-- A message to another package goes out, and its answer comes back with the peer's data and TIME (R319, R343, R348). -/
def State.ask (s : State) (va : Nat) (part : BitVec 4) (req : PeerReq) : List Byte × State :=
  let n := reqWords req
  let s0 : State := { s with outbox := s.outbox ++ [⟨w64 va, part, req⟩], free := s.free + 2 + n }
  ((List.range n).flatMap fun i => leBytes 8 (Config.peerWord (s.free + 2 + i)).toNat, s0.receive (Config.freeWord (s.free + 1)).toNat)

/-- The cause that another package refuses a request with, if it does (R344). -/
def State.farCause (s : State) (pl : Place) (req : PeerReq) : Option Cause := Cause.ofCode pl req (Config.peerRefusal s.free).toNat

/-- An access of core `p` that leaves for a peer package or a lender: the message goes out, and the answer is the peer's: refused, or its
data (R343, R344, R348). A store of fewer than 4 bytes and a `vstadd` need options that are absent: their
messages are discarded (R342). That they are counted at a port of this package, and that the store is then over and posts no entry, is the
model's choice (log 60). An address that names this package is served here (R343), at the home of the target byte. -/
def State.remote (s : State) (p : Nat) (pl : Place) (req : PeerReq) : Served :=
  let part := (s.core p).seat.part
  match s.farAddr pl, pl with
  | some va, _ =>
    if !hasOption req then .done [] s.discard
    else
      let (l, s') := s.ask va part req
      (match s.farCause pl req with
        | some c => .refused c s'
        | none => .done l s')
  | none, .peer va => s.exportServe (dieOf p) va part req
  | none, _ => .refused .xmiss s

/-- R344: a refused store posts a KIND 3 entry in the requester's ring. -/
def State.refusedStore (s : State) (part : BitVec 4) (va : Word) (c : Cause) : State :=
  s.cqPost part ⟨va, 3, 0, BitVec.ofNat 7 c.code, false⟩

/-- An answer to a request from outside. -/
def State.answer (s : State) (r : Served) : State :=
  match r with
  | .refused c s' => { s' with replies := s'.replies ++ [⟨BitVec.ofNat 8 c.code, false, []⟩] }
  | .done l s' => { s' with replies := s'.replies ++ [⟨0, false, l⟩] }
  | .wait => s

/-- R343: EXPORT_ACCESS. It waits where the home is not ready. -/
def execExportAccess (va : Word) (part : BitVec 4) (req : PeerReq) (sent : Nat) (s : State) : Out :=
  let s := s.receive sent
  if !hasOption req then .next s.discard else .next (s.answer (s.exportRequest va.toNat part req))

/-- R348: LEASE_ACCESS. -/
def execLeaseAccess (e off : Nat) (req : PeerReq) (sent : Nat) (s : State) : Out :=
  let s := s.receive sent
  if !hasOption req then .next s.discard else .next (s.answer (s.leaseServe e off req))

/-- R337: a host read of HBM: poison with zero bytes where the device cannot correct, and UNCORR; a unit that is lent out is refused
(R348). The message carries TIME (R319). -/
def execHostMemRead (m : HostAddr) (n : Nat) (s : State) : Out :=
  let s := s.receive m.sent
  let pa := m.addr.toNat
  if Config.hbmBytes < pa + n ∨ s.mustWait (run pa n) then .next s
  else if (run pa n).any s.lentOut then
    .next { s with replies := s.replies ++ [⟨BitVec.ofNat 8 (Cause.code .xperm), false, []⟩] }
  else match s.firstMeet .uncorr (run pa n) with
    | some b =>
      let s := s.atHome 0 (homeOf b) (·.reportKey 0x39 b)
      .next { s with replies := s.replies ++ [⟨0, true, List.replicate n 0⟩] }
    | none =>
      let s' := s.atHomes 0 (run pa n) fun ks s => s.reportCorr ks
      .next { s' with replies := s'.replies ++ [⟨0, false, Memory.gets s.mem pa n⟩] }

/-- R337, R365: a host write of HBM with chunk tag 0. CXL.mem gives a write no error completion: one that is refused (R348) or cannot be
performed has no effect on memory. -/
def execHostMemWrite (m : HostAddr) (bytes : List Byte) (s : State) : Out :=
  let s := s.receive m.sent
  let pa := m.addr.toNat
  let ks := run pa bytes.length
  if Config.hbmBytes < pa + bytes.length ∨ s.writeWaits ks ∨ ks.any s.lentOut then .next s
  else match s.writeErr ks with
    | some b => .next (s.atHome 0 (homeOf b) (·.reportKey 0x39 b))
    | none => .next ((s.atHomes 0 ks fun _ s => s).store 0 pa bytes)

end Sys2Proof.Machine
end

