-- ==== Sys2Proof/Machine/Crypto.lean ====
section
/-!
DEFINITION. Crypto: SHA-512 and ECDSA P-521 of the colophon (R358), AES-256-GCM of sealed contexts (R316). The spec names FIPS
180-4, FIPS 186-5 and NIST SP 800-38D; their constants are PRESUMED from those standards (log 10).
-/

namespace Sys2Proof.Machine

/-! ### SHA-512 -/

/-- Big-endian number of bytes. -/
def beNat (l : List Byte) : Nat := l.foldl (fun n b => n * 256 + b.toNat) 0
/-- The `n` big-endian bytes of `x`. -/
def beBytes (n x : Nat) : List Byte := (leBytes n x).reverse

/-- The round constants. -/
def shaK : List Nat :=
  [0x428A2F98D728AE22, 0x7137449123EF65CD, 0xB5C0FBCFEC4D3B2F, 0xE9B5DBA58189DBBC,
    0x3956C25BF348B538, 0x59F111F1B605D019, 0x923F82A4AF194F9B, 0xAB1C5ED5DA6D8118,
    0xD807AA98A3030242, 0x12835B0145706FBE, 0x243185BE4EE4B28C, 0x550C7DC3D5FFB4E2,
    0x72BE5D74F27B896F, 0x80DEB1FE3B1696B1, 0x9BDC06A725C71235, 0xC19BF174CF692694] ++
  [0xE49B69C19EF14AD2, 0xEFBE4786384F25E3, 0xFC19DC68B8CD5B5, 0x240CA1CC77AC9C65,
    0x2DE92C6F592B0275, 0x4A7484AA6EA6E483, 0x5CB0A9DCBD41FBD4, 0x76F988DA831153B5,
    0x983E5152EE66DFAB, 0xA831C66D2DB43210, 0xB00327C898FB213F, 0xBF597FC7BEEF0EE4,
    0xC6E00BF33DA88FC2, 0xD5A79147930AA725, 0x6CA6351E003826F, 0x142929670A0E6E70] ++
  [0x27B70A8546D22FFC, 0x2E1B21385C26C926, 0x4D2C6DFC5AC42AED, 0x53380D139D95B3DF,
    0x650A73548BAF63DE, 0x766A0ABB3C77B2A8, 0x81C2C92E47EDAEE6, 0x92722C851482353B,
    0xA2BFE8A14CF10364, 0xA81A664BBC423001, 0xC24B8B70D0F89791, 0xC76C51A30654BE30,
    0xD192E819D6EF5218, 0xD69906245565A910, 0xF40E35855771202A, 0x106AA07032BBD1B8] ++
  [0x19A4C116B8D2D0C8, 0x1E376C085141AB53, 0x2748774CDF8EEB99, 0x34B0BCB5E19B48A8,
    0x391C0CB3C5C95A63, 0x4ED8AA4AE3418ACB, 0x5B9CCA4F7763E373, 0x682E6FF3D6B2B8A3,
    0x748F82EE5DEFB2FC, 0x78A5636F43172F60, 0x84C87814A1F0AB72, 0x8CC702081A6439EC,
    0x90BEFFFA23631E28, 0xA4506CEBDE82BDE9, 0xBEF9A3F7B2C67915, 0xC67178F2E372532B] ++
  [0xCA273ECEEA26619C, 0xD186B8C721C0C207, 0xEADA7DD6CDE0EB1E, 0xF57D4F7FEE6ED178,
    0x6F067AA72176FBA, 0xA637DC5A2C898A6, 0x113F9804BEF90DAE, 0x1B710B35131C471B,
    0x28DB77F523047D84, 0x32CAAB7B40C72493, 0x3C9EBE0A15C9BEBC, 0x431D67C49C100D4C,
    0x4CC5D4BECB3E42B6, 0x597F299CFC657E2A, 0x5FCB6FAB3AD6FAEC, 0x6C44198C4A475817]

/-- The initial hash value. -/
def shaInit : List Word := [
  0x6A09E667F3BCC908,
  0xBB67AE8584CAA73B,
  0x3C6EF372FE94F82B,
  0xA54FF53A5F1D36F1,
  0x510E527FADE682D1,
  0x9B05688C2B3E6C1F,
  0x1F83D9ABFB41BD6B,
  0x5BE0CD19137E2179]

/-- The message schedule, latest word first, extended by `n` words. -/
def shaExtend : Nat → List Word → List Word
  | 0, w => w
  | n + 1, w =>
    let s0 := fun (x : Word) => x.rotateRight 1 ^^^ x.rotateRight 8 ^^^ x >>> 7
    let s1 := fun (x : Word) => x.rotateRight 19 ^^^ x.rotateRight 61 ^^^ x >>> 6
    shaExtend n ((s1 (w.getD 1 0) + w.getD 6 0 + s0 (w.getD 14 0) + w.getD 15 0) :: w)

/-- One round on the working variables a to h. -/
def shaRound (v : List Word) (kw : Word) : List Word :=
  match v with
  | [a, b, c, d, e, f, g, h] =>
    let t1 := h + (e.rotateRight 14 ^^^ e.rotateRight 18 ^^^ e.rotateRight 41) + ((e &&& f) ^^^ (~~~e &&& g)) + kw
    let t2 := (a.rotateRight 28 ^^^ a.rotateRight 34 ^^^ a.rotateRight 39) + ((a &&& b) ^^^ (a &&& c) ^^^ (b &&& c))
    [t1 + t2, a, b, c, d + t1, e, f, g]
  | _ => v

/-- One 128-byte block. -/
def shaBlock (h : List Word) (blk : List Byte) : List Word :=
  let w0 := (List.range 16).map fun i => w64 (beNat ((blk.drop (8 * i)).take 8))
  let w := (shaExtend 64 w0.reverse).reverse
  let v := (w.zip shaK).foldl (fun v (x : Word × Nat) => shaRound v (x.1 + w64 x.2)) h
  List.zipWith (· + ·) h v

/-- All blocks of a padded message. -/
def shaBlocks : Nat → List Word → List Byte → List Word
  | 0, h, _ => h
  | n + 1, h, l => shaBlocks n (shaBlock h (l.take 128)) (l.drop 128)

/-- SHA-512 (FIPS 180-4). -/
def sha512 (m : List Byte) : List Byte :=
  let z := (128 - (m.length + 17) % 128) % 128
  let p := m ++ [0x80] ++ List.replicate z 0 ++ beBytes 16 (8 * m.length)
  (shaBlocks (p.length / 128) shaInit p).flatMap fun w => beBytes 8 w.toNat

/-! ### ECDSA on P-521 -/

/-- The field prime. -/
def ecP : Nat := 2 ^ 521 - 1
/-- The curve's b. -/
def ecB : Nat :=
  0x51953eb9618e1c9a1f929a21a0b68540eea2da725b99b315f3b8b489918ef109e156193951ec7e937b1652c0bd3bb1bf073573df883d2c34f1ef451fd46b503f00
/-- The base point. -/
def ecG : Nat × Nat :=
  (0xc6858e06b70404e9cd9e3ecb662395b4429c648139053fb521f828af606b4d3dbaa14b5e77efe75928fe1dc127a2ffa8de3348b3c1856a429bf97e7e31c2e5bd66,
   0x11839296a789a3bc0045c8a5fb42c7d1bd998f54449579b446817afbd17273e662c97ee72995ef42640c550b9013fad0761353c7086a272c24088be94769fd16650)
/-- The order of the base point. -/
def ecN : Nat :=
  0x1fffffffffffffffffffffffffffffffffffffffffffffffffffffffffffffffffa51868783bf2f966b7fcc0148f709a5d03bb5c9b8899c47aebb6fb71e91386409

/-- `b^e mod m`, over the `k` low bits of `e`. -/
def powMod (m : Nat) : Nat → Nat → Nat → Nat
  | 0, _, _ => 1
  | k + 1, b, e => (if e % 2 = 1 then b else 1) * powMod m k (b * b % m) (e / 2) % m

/-- The inverse modulo a prime of at most 521 bits. -/
def invMod (m a : Nat) : Nat := powMod m 521 (a % m) (m - 2)

/-- Point addition; none is the point at infinity. -/
def ecAdd (p q : Option (Nat × Nat)) : Option (Nat × Nat) :=
  match p, q with
  | none, q => q
  | p, none => p
  | some (x1, y1), some (x2, y2) =>
    if x1 = x2 ∧ (y1 + y2) % ecP = 0 then none
    else
      let l := if x1 = x2 then (3 * x1 * x1 + (ecP - 3)) * invMod ecP (2 * y1) % ecP
        else (y2 + ecP - y1) * invMod ecP (x2 + ecP - x1) % ecP
      let x := (l * l + 2 * ecP - x1 - x2) % ecP
      some (x, (l * (x1 + ecP - x) + ecP - y1) % ecP)

/-- Scalar multiplication over the `k` low bits. -/
def ecMul : Nat → Nat → Option (Nat × Nat) → Option (Nat × Nat)
  | 0, _, _ => none
  | k + 1, n, p => ecAdd (if n % 2 = 1 then p else none) (ecMul k (n / 2) (ecAdd p p))

/-- ECDSA verification (FIPS 186-5) of (r, s) over a digest with a public key. -/
def ecVerify (digest : List Byte) (qx qy r s : Nat) : Bool :=
  let ok := decide (1 ≤ r) && decide (r < ecN) && decide (1 ≤ s) && decide (s < ecN) && decide (qx < ecP) &&
    decide (qy < ecP) && decide (qy * qy % ecP = (qx * qx % ecP * qx + (ecP - 3) * qx + ecB) % ecP)
  ok &&
    (let w := invMod ecN s
     let e := beNat digest
     match ecAdd (ecMul 521 (e * w % ecN) (some ecG)) (ecMul 521 (r * w % ecN) (some (qx, qy))) with
     | none => false
     | some (x, _) => decide (x % ecN = r))

/-! ### AES-256 in GCM -/

/-- Doubling in GF(2^8). -/
def gfDouble (x : Byte) : Byte := if x.getLsbD 7 then (x <<< 1) ^^^ 0x1B else x <<< 1
/-- Multiplication in GF(2^8). -/
def gfMul (x y : Byte) : Byte :=
  ((List.range 8).foldl (fun (a : Byte × Byte) i =>
    (if y.getLsbD i then a.1 ^^^ a.2 else a.1, gfDouble a.2)) (0, x)).1
/-- The inverse in GF(2^8): x^254. -/
def gfInv (x : Byte) : Byte :=
  ((List.range 7).foldl (fun (a : Byte × Byte) _ => (gfMul a.1 (gfMul a.2 a.2), gfMul a.2 a.2)) ((1 : Byte), x)).1
/-- The S-box. -/
def sbox (x : Byte) : Byte :=
  let b := gfInv x
  b ^^^ b.rotateLeft 1 ^^^ b.rotateLeft 2 ^^^ b.rotateLeft 3 ^^^ b.rotateLeft 4 ^^^ 0x63

/-- Bytewise exclusive or. -/
def xorBytes (a b : List Byte) : List Byte := List.zipWith (· ^^^ ·) a b

/-- The round constant of key word `8 i`. -/
def rcon (i : Nat) : Byte := (List.range (i - 1)).foldl (fun x _ => gfDouble x) 1

/-- The 60 words of the key schedule, by index from 8 on. -/
def keyExpand : Nat → Nat → List (List Byte) → List (List Byte)
  | 0, _, l => l
  | n + 1, i, l =>
    let prev := l.getD (i - 1) []
    let t := if i % 8 = 0 then
        xorBytes ((prev.drop 1 ++ prev.take 1).map sbox) [rcon (i / 8), 0, 0, 0]
      else if i % 8 = 4 then prev.map sbox else prev
    keyExpand n (i + 1) (l ++ [xorBytes (l.getD (i - 8) []) t])

/-- The round keys of a 32-byte key. -/
def roundKeys (k : List Byte) : List (List Byte) :=
  let w := keyExpand 52 8 ((List.range 8).map fun i => (k.drop (4 * i)).take 4)
  (List.range 15).map fun r => ((w.drop (4 * r)).take 4).flatten

/-- ShiftRows on a column-major state. -/
def shiftRows (s : List Byte) : List Byte :=
  (List.range 16).map fun i => s.getD (4 * ((i / 4 + i % 4) % 4) + i % 4) 0
/-- MixColumns. -/
def mixColumns (s : List Byte) : List Byte :=
  (List.range 16).map fun i =>
    let col := fun k => s.getD (4 * (i / 4) + (i + k) % 4) 0
    gfMul 2 (col 0) ^^^ gfMul 3 (col 1) ^^^ col 2 ^^^ col 3

/-- AES-256 encryption of one block. -/
def aesBlock (ks : List (List Byte)) (b : List Byte) : List Byte :=
  let mid := (List.range 13).foldl (fun s r => xorBytes (mixColumns (shiftRows (s.map sbox))) (ks.getD (r + 1) []))
    (xorBytes b (ks.getD 0 []))
  xorBytes (shiftRows (mid.map sbox)) (ks.getD 14 [])

/-- Multiplication in GF(2^128) as GCM orders its bits: bit 0 is the most significant. -/
def ghashMul (x y : Nat) : Nat :=
  ((List.range 128).foldl (fun (a : Nat × Nat) i =>
    (if x.testBit (127 - i) then a.1 ^^^ a.2 else a.1,
      if a.2 % 2 = 1 then (a.2 / 2) ^^^ (0xE1 * 2 ^ 120) else a.2 / 2)) (0, y)).1

/-- Blocks of 16 bytes, the last padded with zeros. -/
def blocks16 : Nat → List Byte → List (List Byte)
  | 0, _ => []
  | n + 1, l => (let b := l.take 16; b ++ List.replicate (16 - b.length) 0) :: blocks16 n (l.drop 16)

/-- The padded blocks of a byte string. -/
def padBlocks (l : List Byte) : List (List Byte) := blocks16 ((l.length + 15) / 16) l

/-- GHASH. -/
def ghash (h : Nat) (l : List (List Byte)) : Nat := l.foldl (fun y b => ghashMul (y ^^^ beNat b) h) 0

/-- The counter-mode stream for a text. -/
def ctrStream (ks : List (List Byte)) (iv : List Byte) (text : List Byte) : List Byte :=
  ((padBlocks text).zipIdx.flatMap fun b => aesBlock ks (iv ++ beBytes 4 (b.2 + 2))).take text.length

/-- The authentication tag over a ciphertext. -/
def gcmTag (ks : List (List Byte)) (iv aad ct : List Byte) : List Byte :=
  let h := beNat (aesBlock ks (List.replicate 16 0))
  let s := ghash h (padBlocks aad ++ padBlocks ct ++ [beBytes 8 (8 * aad.length) ++ beBytes 8 (8 * ct.length)])
  xorBytes (beBytes 16 s) (aesBlock ks (iv ++ beBytes 4 1))

/-- AES-256-GCM encryption: ciphertext and tag. -/
def gcmSeal (key iv aad text : List Byte) : List Byte × List Byte :=
  let ks := roundKeys key
  let ct := xorBytes text (ctrStream ks iv text)
  (ct, gcmTag ks iv aad ct)

/-- AES-256-GCM decryption: the text, if the tag authenticates it. -/
def gcmOpen (key iv aad ct tag : List Byte) : Option (List Byte) :=
  let ks := roundKeys key
  if gcmTag ks iv aad ct = tag then some (xorBytes ct (ctrStream ks iv ct)) else none

end Sys2Proof.Machine
end

