-- ==== Sys2Proof/Machine/Image.lean ====
section
/-!
DEFINITION. Image: the context image and the context window (R314, R315), and the sealed view (R316). The opaque areas of
an image carry the serial number of the context they were read from; written back byte for byte, they bring that context's
opaque parts back, and altered they leave those parts unspecified.
-/

namespace Sys2Proof.Machine

/-- LSTATn of a loop engine (R72); an idle engine is all zeros. -/
def Loop.lstat (l : Loop) : Word :=
  w64 ((if l.act then 2 ^ 63 else 0) + l.stg.toNat * 2 ^ 60 + l.iter.toNat * 2 ^ 28 + l.count.toNat)

/-- LBNDn of a loop engine (R314). -/
def Loop.lbnd (l : Loop) : Word :=
  w64 (l.start.toNat / 4 + l.len.toNat * 2 ^ 46 + (if l.exit then 2 ^ 57 else 0))

/-- A loop engine restored from LSTATn and LBNDn; what the image does not carry stays as in `old`. -/
def Loop.restore (stat bnd : Word) (old : Loop) : Loop :=
  if wbits bnd 56 46 = 0 then Loop.idle
  else {
    act := stat.getLsbD 63
    stg := BitVec.ofNat 3 (wbits stat 62 60)
    iter := BitVec.ofNat 29 (wbits stat 56 28)
    count := BitVec.ofNat 28 (wbits stat 27 0)
    start := BitVec.ofNat 48 (wbits bnd 45 0 * 4)
    len := BitVec.ofNat 11 (wbits bnd 56 46)
    exit := bnd.getLsbD 57
    drain := old.drain
    refill := old.refill }

/-- A pipelined loop of a suspended context that stands at its start with ITER 0 has drained, and refills at the resume (R309). -/
def Ctx.drained (x : Ctx) : Ctx :=
  { x with loops := x.loops.map fun (l : Loop) =>
      ({ l with drain := none, refill := decide (2 ≤ l.s ∧ l.iter = 0 ∧ l.start = x.pc) } : Loop) }

/-- The nesting order of restored loops, innermost first: as before where the same engines are active, else by body length. -/
def loopOrder (ls : Vector Loop 4) (old : List (BitVec 2)) : List (BitVec 2) :=
  let act := [0, 1, 2, 3].filter fun (i : BitVec 2) => (ls[i.toNat]'i.isLt).len != 0
  if act.all old.contains ∧ old.all act.contains then old
  else act.mergeSort fun i j => (ls[i.toNat]'i.isLt).len.toNat ≤ (ls[j.toNat]'j.isLt).len.toNat

/-- MODE as a CSR value (log 11): TASK 0, SYSTEM 1. -/
def Mode.code : Mode → Nat
  | .task => 0 | .system => 1

/-- Size of the context image (R316). -/
def imageSize : Nat := 0x26000

/-- Is an offset of the image in an opaque area (R314)? -/
def isOpaque (o : Nat) : Bool :=
  (decide (0x400 ≤ o) && decide (o < 0x1000)) || (decide (0x12400 ≤ o) && decide (o < 0x14000))

/-- Bytes cut or filled with zeros to a size. -/
def sized (n : Nat) (l : List Byte) : List Byte := (l ++ List.replicate n 0).take n

/-- The bytes of a vector register. -/
def vregBytes (v : VReg) : List Byte := v.toList.flatMap fun e => leBytes 4 e.toNat
/-- The bytes of a mask register. -/
def mregBytes (k : MReg) : List Byte := k.toList.flatMap fun r => leBytes 8 r.toNat
/-- The bytes of words. -/
def wordBytes (l : List Word) : List Byte := l.flatMap fun w => leBytes 8 w.toNat

/-- The scalar part of the image at 0x100 (R314). -/
def Ctx.scalars (x : Ctx) : List Word :=
  [x.pc.setWidth 64, w64 x.mode.code, x.p.setWidth 64, x.args, x.tcb, x.warn.setWidth 64, x.vufl.setWidth 64,
    x.tcause, x.tpc, x.tinfo, x.taddr, x.tvec, x.tsave] ++ x.cut.toList

/-- The image of a context (R314). -/
def Ctx.image (x : Ctx) (serial : Nat) : List Byte :=
  let op := fun lo n => (run lo n).map (Config.opaqueArea serial)
  wordBytes x.g.toList ++ sized 256 (wordBytes x.scalars) ++
  wordBytes (x.loops.toList.map Loop.lstat) ++ wordBytes (x.loops.toList.map Loop.lbnd) ++
  sized 0x1C0 ((x.tok.toList.flatMap fun t => leBytes 4 (t.iss.toNat + t.dn.toNat * 2 ^ 16))) ++
  op 0x400 0xC00 ++ wordBytes x.spill.toList ++ x.vu.v.toList.flatMap vregBytes ++
  sized 0x400 ((x.vu.k.set 0 (Vector.replicate 16 (BitVec.allOnes 64))).toList.flatMap mregBytes) ++ op 0x12400 0x1C00 ++
  sized 0x9000 x.me.shadow.bytes.toList ++ sized 0x9000 x.me.active.bytes.toList

/-- A vector register of 4,096 bytes. -/
def vregOf (get : Nat → Byte) (o : Nat) : VReg :=
  Vector.ofFn fun j => BitVec.ofNat 32 (leNat ((run (o + 4 * j.val) 4).map get))
/-- A mask register of 128 bytes. -/
def mregOf (get : Nat → Byte) (o : Nat) : MReg :=
  Vector.ofFn fun r => BitVec.ofNat 64 (leNat ((run (o + 8 * r.val) 8).map get))

/-- The context of an image: its plain parts from the bytes, its opaque parts from `base` (R314). -/
def ctxOf (get : Nat → Byte) (base : Ctx) : Ctx :=
  let dw := fun o => w64 (leNat ((run o 8).map get))
  let loops : Vector Loop 4 := Vector.ofFn fun i => Loop.restore (dw (0x200 + 8 * i.val)) (dw (0x220 + 8 * i.val)) base.loops[i]
  { base with
    g := Vector.ofFn fun i => if i.val = 0 then 0 else dw (8 * i.val)
    pc := BitVec.ofNat 48 (wbits (dw 0x100) 47 2 * 4)
    mode := if (dw 0x108).getLsbD 0 then .system else .task
    p := (dw 0x110).setWidth 8 ||| 1
    args := dw 0x118
    tcb := dw 0x120
    warn := (dw 0x128).setWidth 8
    vufl := (dw 0x130).setWidth 7
    tcause := dw 0x138 &&& 0x170FF
    tpc := dw 0x140 &&& 0xFFFFFFFFFFFC
    tinfo := dw 0x148
    taddr := dw 0x150
    tvec := dw 0x158 &&& 0xFFFFFFFFFFFC
    tsave := dw 0x160
    cut := Vector.ofFn fun i => dw (0x168 + 8 * i.val)
    loops := loops
    order := loopOrder loops base.order
    tok := Vector.ofFn fun i =>
      let w := leNat ((run (0x240 + 4 * i.val) 4).map get)
      ⟨BitVec.ofNat 16 w, BitVec.ofNat 16 (w / 2 ^ 16), (base.tok[i]).ahead⟩
    spill := Vector.ofFn fun i => dw (0x1000 + 8 * i.val)
    vu := { base.vu with
      v := Vector.ofFn fun i => vregOf get (0x2000 + 4096 * i.val)
      k := Vector.ofFn fun i => if i.val = 0 then Vector.replicate 16 (BitVec.allOnes 64) else mregOf get (0x12000 + 128 * i.val) }
    me := { base.me with
      shadow := { base.me.shadow with bytes := ((run 0x14000 0x9000).map get).toArray }
      active := { base.me.active with bytes := ((run 0x1D000 0x9000).map get).toArray } } }

/-- The byte at an offset of the plain view: as software wrote it, else as the held context has it, else 0 (R357). -/
def Shadow.byte (h : Shadow) (o : Nat) : Byte :=
  match look h.wrote o with
  | some b => b
  | none => match h.ctx with
    | some x => (x.image h.serial).getD o 0
    | none => 0

/-- The opaque areas of the shadow match those of a serial number. -/
def Shadow.matches (h : Shadow) (serial : Nat) : Bool :=
  (run 0x400 0xC00 ++ run 0x12400 0x1C00).all fun o => h.byte o == Config.opaqueArea serial o

/-- The context that the shadow holds, with its phase and whether its opaque areas were altered: the context swapped out, or the one that
its bytes give (R314). `n` numbers a fresh unspecified context. -/
def Shadow.content (h : Shadow) (evicted : List (Nat × Phase × Ctx)) (n : Nat) : Phase × Ctx × Bool :=
  match h.ctx, h.wrote with
  | some x, [] => (h.phase, x, false)
  | c, _ =>
    match (match c with
      | some x => if h.matches h.serial then some (h.phase, x) else none
      | none => none) with
    | some (ph, x) => (ph, (ctxOf h.byte x).drained, false)
    | none => match evicted.find? fun e => h.matches e.1 with
      | some (_, ph, x) => (ph, (ctxOf h.byte x).drained, false)
      | none => (.running, (ctxOf h.byte (Config.freeContext n)).drained, true)

/-- TCB in the image of a shadow (R315). -/
def Shadow.imageTcb (h : Shadow) : Word := w64 (leNat ((run 0x120 8).map h.byte))

/-! ### The sealed view -/

/-- The initial value of R316: SEQ, 28 zero bits, n. -/
def sealIv (seq n : Nat) : List Byte := beBytes 8 seq ++ beBytes 4 n

/-- The sealed view of an image (R316): header, ciphertext, tag. -/
def sealImage (key : List Byte) (n seq : Nat) (img : List Byte) : List Byte :=
  let hdr := leBytes 4 0x4C53524B ++ leBytes 4 n ++ leBytes 8 seq
  let (ct, tag) := gcmSeal key (sealIv seq n) hdr img
  hdr ++ ct ++ tag

/-- Authenticates and decrypts a sealed image with the key slot that its header names: its partition and its bytes. -/
def openImage (keys : Nat → List Byte) (l : List Byte) : Option (Nat × List Byte) :=
  let hdr := l.take 16
  let n := fieldLE hdr 4 4 % 16
  let seq := fieldLE hdr 8 8
  (gcmOpen (keys n) (sealIv seq n) hdr ((l.drop 16).take imageSize) ((l.drop (16 + imageSize)).take 16)).map fun t => (n, t)

/-- R316: sealing. The device advances SEQ, encrypts the image and holds the result. -/
def State.sealing (s : State) (p : Nat) : State :=
  let c := s.core p
  let h := c.shadow
  if !h.sealView || h.st != .held then s
  else match h.ctx with
    | none => s
    | some x =>
      let n := h.seat.part
      let seq := s.colo.bootcnt.toNat * 2 ^ 32 + (s.seals + 1) % 2 ^ 32
      let img := sealImage (s.part n).key n.toNat seq (x.image h.serial)
      { s.setCore p { c with shadow := { h with sealedImage := img } } with seals := s.seals + 1 }

/-- Where the bytes that software writes into the sealed view stand in `wrote`. -/
def sealBase : Nat := 2 ^ 20

/-- A read of 8 bytes of the context window below CTXCTL (R314, R316). -/
def State.ctxRead (s : State) (p o : Nat) : Word × State :=
  let h := (s.core p).shadow
  if h.sealView then
    let s := if o = 0 then s.sealing p else s
    let h := (s.core p).shadow
    (match h.sealedImage with
      | [] => (w64 (leNat ((run (sealBase + o) 8).map fun j => (look h.wrote j).getD 0)), s)
      | l => (w64 (fieldLE l o 8), s))
  else (if o + 8 ≤ imageSize then w64 (leNat ((run o 8).map h.byte)) else 0, s)

/-- A write of 8 bytes of the context window below CTXCTL: ignored while STATE = 1 (R314). -/
def State.ctxWrite (s : State) (p o : Nat) (v : Word) : State :=
  let c := s.core p
  let h := c.shadow
  if h.st = .held ∨ (if h.sealView then imageSize + 32 else imageSize) < o + 8 then s
  else
    let base := if h.sealView then sealBase + o else o
    let w := (leBytes 8 v.toNat).zipIdx.foldl (fun t (b, i) => put t (base + i) b) h.wrote
    s.setCore p { c with shadow := { h with wrote := w } }

/-- An empty shadow that keeps its view and error bits. -/
def Shadow.emptied (h : Shadow) : Shadow :=
  { h with st := .empty, ctx := none, wrote := [], sealedImage := [], seat := Seat.none, phase := .free, bad := [] }

/-- The context that a shadow holds leaves the device: its opaque areas are known again when they come back (R314). -/
def State.evict (s : State) (p : Nat) : State :=
  let h := (s.core p).shadow
  match h.ctx with
  | some x => { s with evictions := put s.evictions h.serial (h.phase, x) }
  | none => s

/-- The shadow of a core is written anew, with fresh check bits (R306). -/
def Core.setShadow (c : Core) (h : Shadow) : Core := { c with shadow := h, bad := c.bad.filter (· != .shadow) }

/-- STATE := 0 (R314, R315): the shadow empties and the core is released. -/
def State.ctxEmpty (s : State) (p : Nat) : State := (s.evict p).mapCore p fun c => c.setShadow c.shadow.emptied

/-- STATE := 2 (R314, R316): the shadow is marked loaded; in the sealed view the image is authenticated first, and it, or nothing, takes the
place of what the shadow held. -/
def State.ctxLoad (s : State) (p : Nat) : State :=
  let c := s.core p
  let h := c.shadow
  if !h.sealView then
    s.setCore p { c with shadow := { h with st := .loaded, sealedImage := [], seat := { h.seat with part := (s.ownerOf p).getD 0 } } }
  else
    let l := match h.sealedImage with
      | [] => (run sealBase (imageSize + 32)).map fun j => (look h.wrote j).getD 0
      | l => l
    let put := fun (h : Shadow) => (s.evict p).mapCore p fun c => c.setShadow h
    match openImage (fun n => (s.part (BitVec.ofNat 4 n)).key) l with
    | some (n, img) =>
      if s.ownerOf p = some (BitVec.ofNat 4 n) then put { h with
        st := .loaded
        ctx := none
        wrote := img.zipIdx.map fun (b, i) => (i, b)
        sealedImage := []
        bad := []
        seat := { h.seat with part := BitVec.ofNat 4 n } }
      else put { h.emptied with sealErr := true }
    | none => put { h.emptied with sealErr := true }

/-- CTXCTL (R314). -/
def Shadow.ctl (h : Shadow) : Word :=
  w64 ((match h.st with | .empty => 0 | .held => 1 | .loaded => 2) + (if h.sealView then 4 else 0) + (if h.sealErr then 8 else 0))

/-- A write of CTXCTL: SEALERR and SEAL first, then STATE. A change of view or state ends the held sealed copy. -/
def State.ctxctlWrite (s : State) (p : Nat) (v : Word) : State :=
  let s := s.mapCore p fun c => { c with shadow := { c.shadow with
    sealErr := c.shadow.sealErr && !v.getLsbD 3
    sealView := v.getLsbD 2 } }
  match wbits v 1 0 with
  | 0 => s.ctxEmpty p
  | 2 => s.ctxLoad p
  | _ => s

/-- R314: CTXCTL_EMPTY. -/
def execCtxctlEmpty (core : Nat) (s : State) : Out := onCore core (·.ctxEmpty core) s
/-- R316: CTXCTL_LOADED. -/
def execCtxctlLoaded (core : Nat) (s : State) : Out := onCore core (·.ctxLoad core) s
/-- R316: SEALING. -/
def execSealing (core : Nat) (s : State) : Out := onCore core (·.sealing core) s

end Sys2Proof.Machine
end

