-- ==== Sys2Proof/Machine/Sched.lean ====
section
/-!
DEFINITION. Sched: launch records and admission (R167 to R171), free cores and starts (R172, R173), retirement (R174), budgets
(R176), scheduler pre-emption, swap and resume (R307, R311 to R315), ownership of cores (R166), failed launch accesses (R366).
-/

namespace Sys2Proof.Machine

/-! ### Launch records -/

/-- A launch record (R167). -/
structure Launch where
  entry : Word
  args : Word
  shape : Nat
  budget : Nat
  state : Nat
  faultp : Word
  schedp : Word
  needs : Word
  spimg : Nat
  succ : List Nat
  deriving DecidableEq, Repr

/-- Reads the 128 bytes of a record. -/
def Launch.of (l : List Byte) : Launch where
  entry := w64 (fieldLE l 0 8)
  args := w64 (fieldLE l 8 8)
  shape := fieldLE l 0x10 4
  budget := fieldLE l 0x14 4
  state := fieldLE l 0x18 8
  faultp := w64 (fieldLE l 0x20 8)
  schedp := w64 (fieldLE l 0x28 8)
  needs := w64 (fieldLE l 0x30 8)
  spimg := fieldLE l 0x38 8
  succ := (List.range 8).map fun i => fieldLE l (0x40 + 8 * i) 8

/-- LW, LH, PRIO, FIXED, LIST, X, Y of SHAPE (R168). -/
def Launch.lw (r : Launch) : Nat := bits r.shape 14 12
@[inherit_doc Launch.lw] def Launch.lh (r : Launch) : Nat := bits r.shape 18 16
@[inherit_doc Launch.lw] def Launch.prio (r : Launch) : Nat := bits r.shape 21 20
@[inherit_doc Launch.lw] def Launch.fixed (r : Launch) : Bool := r.shape.testBit 24
@[inherit_doc Launch.lw] def Launch.list (r : Launch) : Bool := r.shape.testBit 25
@[inherit_doc Launch.lw] def Launch.x (r : Launch) : Nat := bits r.shape 5 0
@[inherit_doc Launch.lw] def Launch.y (r : Launch) : Nat := bits r.shape 11 8

/-- The cores of a rectangle, by physical index. -/
def rectCores (x y lw lh : Nat) : List Nat :=
  (List.range (2 ^ lh)).flatMap fun dy => (List.range (2 ^ lw)).map fun dx => (y + dy) * 40 + (x + dx)

/-- Does a rectangle obey R162? -/
def rectOk (x y lw lh : Nat) : Bool :=
  x % 2 ^ lw == 0 && y % 2 ^ lh == 0 && decide (x + 2 ^ lw ≤ 40) && decide (y + 2 ^ lh ≤ 16)

/-- The origins that the scheduler tries: increasing y, then increasing x (R172). -/
def origins (lw lh : Nat) : List (Nat × Nat) :=
  ((List.range 16).flatMap fun y => (List.range 40).map fun x => (x, y)).filter fun o => rectOk o.1 o.2 lw lh

/-- A reserved bit of the record is set, or a field that LIST makes zero is not (R167, R168). -/
def Launch.reserved (r : Launch) : Bool :=
  bits r.shape 31 26 != 0 || bits r.shape 23 22 != 0 || r.shape.testBit 19 || r.shape.testBit 15 || bits r.shape 7 6 != 0 ||
  bits r.state 31 18 != 0 || bits r.state 15 4 != 0 || wbits r.needs 63 51 != 0 ||
  bits r.spimg 63 56 != 0 || bits r.spimg 11 0 != 0 || (r.list && (r.succ.drop 2).any (· != 0))

/-- NEEDS breaks a limit of R169. -/
def needsBad (n : Word) : Bool :=
  decide (192 < wbits n 7 0 + wbits n 15 8) || decide (1024 < wbits n 25 16 + wbits n 36 26) ||
  decide (96 < wbits n 43 37 + wbits n 50 44)

/-- Is a readable record malformed (R171)? `cown` is what the partition owns, `pri` the queue's number. -/
def Launch.malformed (r : Launch) (tcb : Nat) (pri : Nat) (cown : List Nat) : Bool :=
  let len := bits r.spimg 55 48
  let owns := fun (l : List Nat) => l.all cown.contains
  tcb % 128 != 0 || bits r.state 3 0 != 0 || r.prio != pri || decide (5 < r.lw) || decide (4 < r.lh) || r.reserved ||
  r.entry.toNat % 4 != 0 || needsBad r.needs ||
  (len != 0 && (decide (192 < len) || (r.needs != 0 && (decide (wbits r.needs 15 8 < len) || wbits r.needs 7 0 != 0)))) ||
  (if r.fixed then !(rectOk r.x r.y r.lw r.lh && owns (rectCores r.x r.y r.lw r.lh))
   else !(origins r.lw r.lh).any fun o => owns (rectCores o.1 o.2 r.lw r.lh))

/-- ST codes (R168). -/
def TaskSt.code : TaskSt → Nat
  | .new => 0 | .waiting => 1 | .ready => 2 | .running => 3 | .suspended => 4 | .done => 5 | .faulted => 6 | .cancelled => 7
  | .rejected => 8

/-- A final state (R170). -/
def TaskSt.final : TaskSt → Bool
  | .done | .faulted | .cancelled | .rejected => true
  | _ => false

/-- A task keeps the cause of its first failed device access (R366). -/
def Task.note (t : Task) (c : Option Cause) : Task :=
  match c with
  | some k => if t.cause = 0 then { t with cause := BitVec.ofNat 7 k.code } else t
  | none => t

/-- One atomic update of a doubleword by the device (R174, R366): the cause of a failed access, or the new value. -/
def State.devUpdate (s : State) (n : BitVec 4) (va : Nat) (f : Nat → Nat) : Except Cause Nat × State :=
  match s.devGet n va 8 with
  | (.error e, s') => (.error e.1, s')
  | (.ok l, s) =>
    let v := f (leNat l)
    match s.devWrite n va (leBytes 8 v) with
    | (some c, s') => (.error c, s')
    | (none, s') => (.ok v, s')

/-- The task takes a state, and its record's ST is written (R170, R366). -/
def State.setSt (s : State) (n : BitVec 4) (t : Task) (st : TaskSt) : State :=
  let (r, s) := s.devUpdate n (t.tcb.toNat + 0x18) fun v => v / 16 * 16 + st.code
  let t := { t with st := st }.note (match r with | .error c => some c | .ok _ => none)
  s.setPart n ((s.part n).setTask t)

/-- FRZ is set (R175). -/
def State.freeze (s : State) (n : BitVec 4) : State := s.setPart n { s.part n with frz := true }

/-! ### Admission -/

/-- Entries of a launch queue (R166). -/
def Part.queueSize (q : Part) : Nat := 2 ^ (if 4 ≤ wbits q.qlog 4 0 ∧ wbits q.qlog 4 0 ≤ 16 then wbits q.qlog 4 0 else 4)

/-- A task as admission makes it. -/
def Launch.task (r : Launch) (tcb : Nat) (st : TaskSt) (age : Nat) : Task where
  tcb := w64 tcb
  st := st
  prio := BitVec.ofNat 2 r.prio
  lw := r.lw
  lh := r.lh
  fixed := r.fixed
  list := r.list
  x := r.x
  y := r.y
  needs := r.needs
  entry := r.entry
  args := r.args
  budget := r.budget
  ran := 0
  hung := false
  faultp := r.faultp
  schedp := r.schedp
  spimg := w64 r.spimg
  age := age
  bypass := 0
  fault := false
  bars := []
  cause := 0
  recfail := false
  claim := none

/-- Admission runs: EN = 1, FRZ = 0 and fewer than 1,024 tasks held (R171, R175). -/
def Part.admits (q : Part) : Bool := q.en && !q.frz && decide (q.tasks.length < 1024)

/-- A queue entry that admits no task: its completion entry is posted, and FRZ is set (R175, R366). -/
def State.refuseEntry (s : State) (n : BitVec 4) (subj : Word) (cause : BitVec 7) : State :=
  (s.cqPost n ⟨subj, 0, 8, cause, false⟩).freeze n

/-- Admits the record at `tcb` from queue `pri`. A record that is not held and whose ST is not NEW is malformed (R171); that its ST becomes
REJECTED like that of every malformed record, for which R170 has no transition, is the model's choice (log 50). An entry that names a record which is already admitted is REJECTED without a word to that
record, whose task goes on (R170, log 50). -/
def State.admitRecord (s : State) (n : BitVec 4) (pri tcb : Nat) : State :=
  let q := s.part n
  let add := fun (s : State) (t : Task) =>
    s.setPart n { s.part n with tasks := (s.part n).tasks ++ [t], ages := (s.part n).ages + 1 }
  if (q.task (w64 tcb)).isSome then s.refuseEntry n (w64 tcb) 0
  else match s.devGet n tcb 128 with
  | (.error e, s) => s.refuseEntry n (w64 tcb) (BitVec.ofNat 7 e.1.code)
  | (.ok l, s) =>
    let r := Launch.of l
    let st : TaskSt := if r.malformed tcb pri q.cown then .rejected
      else if bits r.state 63 32 ≠ 0 then .waiting
      else if r.state.testBit 16 then .cancelled else .ready
    let s := (add s (r.task tcb .new q.ages)).setSt n (r.task tcb .new q.ages) st
    if st = .rejected then s.freeze n else s

/-- One queue's part of a round. A ring entry beyond HBM, or in a unit that is lent out (R348), has the fate of one that cannot be read,
with cause XPERM, which is the model's choice (log 47). -/
def State.admitQueue (s : State) (n : BitVec 4) (pri : Fin 4) : State :=
  let q := s.part n
  let m := q.queueSize
  if !q.admits || q.qhead[pri] % m == q.qtail[pri] % m then s
  else
    let k := q.qbase[pri].toNat + 8 * (q.qhead[pri] % m)
    let s' := s.setPart n { q with qhead := q.qhead.set pri ((q.qhead[pri] + 1) % m) }
    if s.ringRefused (run k 8) then s'.refuseEntry n 0 (BitVec.ofNat 7 (Cause.code .xperm))
    else if s.mustWait (run k 8) then s
    else match s.firstMeet .uncorr (run k 8) with
      | some b => (s'.atHome 0 (homeOf k) (·.reportKey 0x39 b)).refuseEntry n 0 (BitVec.ofNat 7 (Cause.code .memerr))
      | none => (s'.atHome 0 (homeOf k) (·.reportCorr (run k 8))).admitRecord n pri.val (s.peek k 8)

/-- R171: ADMISSION, one round over the four queues in the order 3, 2, 1, 0. -/
def execAdmission (part : BitVec 4) (s : State) : Out := s.unlessHeld fun s =>
  .next ([3, 2, 1, 0].foldl (fun s (i : Fin 4) => s.admitQueue part i) s)

/-! ### Free cores -/

/-- The task of a SUSPENDED record whose TCB a LOADED shadow carries (R315). -/
def State.loadedTask (s : State) (p : Nat) : Option Task :=
  let c := s.core p
  if c.shadow.st = .loaded then
    ((s.part c.shadow.seat.part).task c.shadow.imageTcb).filter fun t => t.st == .suspended
  else none

/-- The rectangle that a record's SHAPE names (R315), if it obeys R162. -/
def Launch.rect (r : Launch) : List Nat := if rectOk r.x r.y r.lw r.lh then rectCores r.x r.y r.lw r.lh else []

/-- The record of which only SHAPE has been read. -/
def Launch.ofShape (l : List Byte) : Launch := Launch.of (List.replicate 16 0 ++ l ++ List.replicate 108 0)

/-- The SHAPE of a task of which a LOADED shadow stands, as the device reads it (R315, R366): the record and the state, with the cause of a
read that failed kept for the completion entry. -/
def State.shapeRead (s : State) (n : BitVec 4) (t : Task) : Option Launch × State :=
  if (s.part n).cown.any fun p => (s.loadedTask p).map (·.tcb) == some t.tcb then
    (match s.devGet n (t.tcb.toNat + 0x10) 4 with
      | (.ok l, s) => (some (Launch.ofShape l), s)
      | (.error e, s) => (none, s.setPart n ((s.part n).setTask (t.note (some e.1)))))
  else (none, s)

/-- The rectangle that SHAPE gives as it is read now. -/
def State.shapeNow (s : State) (n : BitVec 4) (t : Task) : List Nat :=
  match (s.shapeRead n t).1 with
  | some r => r.rect
  | none => []

/-- READY tasks, highest priority first, then oldest (R172). -/
def Part.readyOrder (q : Part) : List Task :=
  (q.tasks.filter (·.st == .ready)).mergeSort fun a b => b.prio.toNat < a.prio.toNat || (a.prio == b.prio && decide (a.age ≤ b.age))

/-- Has the head been bypassed 8 times, so that no other task starts before it (R172)? -/
def Task.starved (h : Task) : Bool := decide (8 ≤ h.bypass)

/-- The origin that a pre-emption reserved for a task (R307), while the partition owns every core there (R165). -/
def Part.claimOf (q : Part) (t : Task) : Option (Nat × Nat) :=
  t.claim.filter fun o => (rectCores o.1 o.2 t.lw t.lh).all q.cown.contains

/-- The origin that is held for a task. Where the head has been bypassed 8 times, a claim of another task holds no core until the head has
started (R172): that the head may then take those cores is the model's choice (log 50). -/
def Part.holdFor (q : Part) (t : Task) : Option (Nat × Nat) :=
  match q.readyOrder with
  | h :: _ => if h.starved ∧ h.tcb ≠ t.tcb then none else q.claimOf t
  | [] => q.claimOf t

/-- Cores that the scheduler holds back in a partition: claimed by a pre-emption (R307) for another task than `tcb`, or
reserved for a task of which a LOADED shadow stands (R315). -/
def State.heldBack (s : State) (n : BitVec 4) (tcb : Word) : List Nat :=
  let q := s.part n
  (q.tasks.filter (·.tcb != tcb)).flatMap fun t =>
    match q.holdFor t with
    | some (x, y) => rectCores x y t.lw t.lh
    | none =>
      if t.st = .suspended then s.shapeNow n t else []

/-- The scheduler reads the SHAPE of every task of which a LOADED shadow stands, before it looks for cores for task `tcb` (R315, R366). -/
def State.readShapes (s : State) (n : BitVec 4) (tcb : Word) : State :=
  (s.part n).tasks.foldl (fun s t =>
    if t.tcb ≠ tcb ∧ t.st = .suspended ∧ ((s.part n).holdFor t).isNone then (s.shapeRead n t).2 else s) s

/-- A core holds a running context. -/
def State.runsContext (s : State) (p : Nat) : Bool := (s.core p).phase != .free

/-- A core's shadow holds a SUSPENDED task (R172, R315): a LOADED shadow whose TCB names none holds none. -/
def State.holdsShadow (s : State) (p : Nat) : Bool :=
  match (s.core p).shadow.st with
  | .empty => false
  | .held => true
  | .loaded => (s.loadedTask p).isSome

/-- A core is free (R172). -/
def State.isFree (s : State) (n : BitVec 4) (p : Nat) : Bool :=
  (s.part n).cown.contains p && !s.runsContext p && !s.holdsShadow p

/-- The origins that a task may take. -/
def Task.origins (t : Task) : List (Nat × Nat) := if t.fixed then [(t.x, t.y)] else Machine.origins t.lw t.lh

/-- The first origin at which a task fits. -/
def State.fit (s : State) (n : BitVec 4) (t : Task) : Option (Nat × Nat) :=
  let held := s.heldBack n t.tcb
  t.origins.find? fun o => (rectCores o.1 o.2 t.lw t.lh).all fun p => s.isFree n p && !held.contains p

/-- NEEDS ranges of two tasks are disjoint (R307). -/
def needsDisjoint (a b : Word) : Bool :=
  let apart := fun x n y m => decide (x + n ≤ y) || decide (y + m ≤ x) || n == 0 || m == 0
  apart (wbits a 7 0) (wbits a 15 8) (wbits b 7 0) (wbits b 15 8) &&
  apart (wbits a 25 16) (wbits a 36 26) (wbits b 25 16) (wbits b 36 26) &&
  apart (wbits a 43 37) (wbits a 50 44) (wbits b 43 37) (wbits b 50 44)

/-- A core's shadow holds a context of the task of partition `n` with this TCB (R313, R165). -/
def Core.holds (c : Core) (n : BitVec 4) (tcb : Word) : Bool := c.shadow.st == .held && c.shadow.seat.part == n && c.shadow.seat.tcb == tcb

/-- The one context of a core, if it holds exactly one that no eviction touches: its task's record (R307, R315). -/
def State.soleTask (s : State) (n : BitVec 4) (p : Nat) : Option Task :=
  let c := s.core p
  let q := s.part n
  if c.phase != .free && c.shadow.st == .empty then q.task c.seat.tcb
  else if c.phase == .free && c.holds n c.shadow.seat.tcb then
    (q.task c.shadow.seat.tcb).filter fun t => t.cores.all fun o => (s.core o).holds n t.tcb
  else none

/-- May head `h` take the core of task `v` by pre-emption (R307)? -/
def preemptible (h v : Task) : Bool :=
  decide (v.prio.toNat < h.prio.toNat) && v.needs != 0 && h.needs != 0 && needsDisjoint h.needs v.needs

/-- The first origin that a pre-emption for the head accepts (R307). -/
def State.preemptAt (s : State) (n : BitVec 4) (h : Task) : Option (Nat × Nat) :=
  let held := s.heldBack n h.tcb
  h.origins.find? fun o => (rectCores o.1 o.2 h.lw h.lh).all fun p =>
    (s.part n).cown.contains p && !held.contains p &&
    (s.isFree n p || (match s.soleTask n p with | some v => preemptible h v | none => false))

/-! ### Starting -/

/-- A record of a task event (R320, R322), which the scheduler's message to the core at the origin makes. -/
def State.taskEvent (s : State) (n : BitVec 4) (t : Task) (evt : Nat) : State :=
  (s.tell [t.y * 40 + t.x]).emit none n (t.y * 40 + t.x) .sys evt LoopTag.none (wbits t.tcb 43 7)

/-- The core of a task at start (R173, R292). PC is ENTRY[47:0]; that the bits above are ignored is the model's choice (log 47). -/
def startCore (q : Part) (n : BitVec 4) (t : Task) (p : Nat) (c : Core) : Core :=
  { c with
    ctx := { Ctx.reset with pc := t.entry.setWidth 48, args := t.args, tcb := t.tcb, tvec := q.tvecp }
    seat := ⟨n, t.tcb, p % 40 - t.x, p / 40 - t.y, t.lw, t.lh, t.prio, t.needs⟩
    phase := .running
    stalled := false
    trap := none
    preempt := false
    mefl := 0
    prqReq := false
    prqSched := false
    stop := false
    late := []
    bad := c.bad.filter (· == .shadow) }

/-- Copies the scratchpad image into each core (R173): the failing read, if one fails, and the state. That the scratchpads are untouched
where a later read of the image fails is the model's choice (log 47). -/
def State.loadImage (s : State) (n : BitVec 4) (t : Task) (cores : List Nat) : Option (Cause × Nat) × State :=
  let len := wbits t.spimg 55 48 * 4096
  let base := wbits t.spimg 47 12 * 4096
  if len = 0 then (none, s)
  else match s.devGet n base len with
  | (.error e, s) => (some e, s)
  | (.ok l, s) => (none, cores.foldl (fun s p => s.atHome 0 (homeOf (spadKey p 0)) (·.store n (spadKey p 0) l)) s)

/-- R173: a task that faults at start. R173 gives no TIME and no TINFO: that the record holds TIME of die 0, whatever the die of the origin,
and the TINFO of the failed check, is the model's choice (log 50). -/
def State.startFault (s : State) (n : BitVec 4) (t : Task) (e : Cause × Nat) : State :=
  let ti := match s.devCheck n false e.2 with | .trap _ ti => ti.toNat | _ => 0
  let rec' : List Byte := leBytes 8 e.1.code ++ leBytes 8 t.entry.toNat ++ leBytes 8 ti ++ leBytes 8 e.2 ++ List.replicate 56 (0 : Byte) ++
    leBytes 4 (t.y * 40 + t.x) ++ leBytes 4 0 ++ leBytes 8 s.time[0] ++ List.replicate 24 (0 : Byte)
  let (bad, s) := s.putFault n t.faultp rec'
  (s.setSt n { t.note (some e.1) with fault := true, recfail := bad.isSome, claim := none } .faulted).freeze n

/-- Starts a task at an origin (R173). -/
def State.startAt (s : State) (n : BitVec 4) (t : Task) (o : Nat × Nat) : State :=
  let t := { t with x := o.1, y := o.2, claim := none, bars := [] }
  let cores := rectCores o.1 o.2 t.lw t.lh
  match s.loadImage n t cores with
  | (some e, s) => s.startFault n t e
  | (none, s) =>
    let s := (s.setSt n t .running).tell cores
    let q := s.part n
    let s := cores.foldl (fun s p => s.mapCore p (startCore q n t p)) s
    { s.taskEvent n t 0x06 with started := true }

/-- The pre-emption of cores is complete: no core there runs a context, and no task that had one of them is RUNNING, so that each has swapped on
all its cores and is SUSPENDED (R307). -/
def State.cleared (s : State) (n : BitVec 4) (cores : List Nat) : Bool :=
  cores.all (fun p => !s.runsContext p) && (s.part n).tasks.all fun v => v.st != .running || !(v.cores.any cores.contains)

/-- Where a READY task may start now: at the origin that its pre-emption has cleared, or where it fits (R172, R307). -/
def State.place (s : State) (n : BitVec 4) (t : Task) : Option (Nat × Nat) :=
  match (s.part n).claimOf t with
  | some o => if s.cleared n (rectCores o.1 o.2 t.lw t.lh) then some o else none
  | none => s.fit n t

/-- R172: TASK_START. The head starts where it fits, or where its pre-emption is complete; else a task whose own pre-emption is
complete. Another READY task that fits and is smaller starts only when no origin admits a pre-emption. Once the head has been bypassed 8
times, no other task starts. -/
def execTaskStart (part : BitVec 4) (s : State) : Out := s.unlessHeld fun s =>
  let q := s.part part
  if !q.en || q.frz || !s.released || s.colo.mwBusy then .next s
  else match q.readyOrder with
    | [] => .next s
    | h :: rest =>
      let s := s.readShapes part h.tcb
      match s.place part h with
      | some o => .next (s.startAt part h o)
      | none =>
        if h.starved then .next s
        else match (rest.filter fun t => (q.claimOf t).isSome).findSome? fun t => (s.place part t).map fun o => (t, o) with
        | some (t, o) => .next (s.startAt part t o)
        | none =>
          if (q.claimOf h).isSome || (s.preemptAt part h).isSome then .next s
          else match (rest.filter fun t => (q.claimOf t).isNone && decide (2 ^ (t.lw + t.lh) < 2 ^ (h.lw + h.lh))).findSome? fun t =>
              (s.fit part t).map fun o => (t, o) with
            | some (t, o) =>
              let s := s.setPart part ((s.part part).setTask { h with bypass := h.bypass + 1 })
              .next (s.startAt part t o)
            | none => .next s

/-- R307: PREEMPTION. The head that fits nowhere reserves an origin and a stop of every core of the tasks there is requested. -/
def execPreemption (part : BitVec 4) (s : State) : Out := s.unlessHeld fun s =>
  let q := s.part part
  if !q.en || q.frz then .next s
  else match q.readyOrder with
    | [] => .next s
    | h :: _ =>
      if (q.claimOf h).isSome then .next s
      else
        let s := s.readShapes part h.tcb
        if (s.fit part h).isSome then .next s
        else match s.preemptAt part h with
        | none => .next s
        | some o =>
          let vs := ((rectCores o.1 o.2 h.lw h.lh).filterMap fun p => s.soleTask part p).filter (·.st == .running)
          let s := s.setPart part ((s.part part).setTask { h with claim := some o })
          let cores := (vs.flatMap Task.cores).eraseDups
          .next (cores.foldl (fun s p => s.mapCore p fun c => { c with prqSched := true }) (s.tell cores))

/-! ### Swap and resume -/

/-- The home that orders an access to a place (R227, R343). -/
def State.homeAt (s : State) (pl : Place) : Home := (s.real pl).home

/-- Queued stores that a stop holds (R297, R302): those without data; behind them, or behind a load that is to be issued again, those of
their class (R24, R27); and those of a class that a fence orders behind one of them at a home (R193). What a handler stores is
not among them. -/
def Ctx.heldStores (x : Ctx) (hm : Place → Home) : List SEntry :=
  let at_ := fun (a b : List Piece) => a.any fun q => b.any fun r => hm q.place == hm r.place
  let byLoad := fun (e : SEntry) (l : LEntry) =>
    let left := l.pieces.filter (!·.done)
    decide (l.seq < e.seq) && !l.dropped && !left.isEmpty && (l.cls == e.cls || (l.fenced.getLsbD e.cls.toNat && at_ left e.pieces))
  let byStore := fun (e o : SEntry) => o.cls == e.cls || (o.fenced.getLsbD e.cls.toNat && at_ o.pieces e.pieces)
  (x.sq.filter fun e => x.mode == .task || decide (e.seq < x.tseq)).foldl
    (fun held e => if !e.ready || x.lq.any (byLoad e) || held.any (byStore e) then held ++ [e] else held) []

/-- The stop of a pre-emption is complete and the core may swap (R297, R307, R312). -/
def State.swapReady (s : State) (p : Nat) : Bool :=
  let c := s.core p
  c.shadow.st == .empty && !c.dbg.stopped &&
  ((c.phase == .running && c.preempt && c.ctx.quiet && (c.ctx.heldStores s.homeAt).length == c.ctx.sq.length) ||
   (c.phase == .halted && c.prqSched))

/-- The running context moves to the shadow (R312), with the errors that its memories hold (R306); the storage is written anew. `serial` numbers its opaque areas. -/
def Core.swapOut (c : Core) (serial : Nat) : Core :=
  { c with
    shadow := { c.shadow with
      st := .held, ctx := some c.ctx.holdEngines.dropLoads.writeBack, seat := c.seat, phase := c.phase, serial := serial, wrote := []
      sealedImage := []
      bad := c.bad.filter (· != .shadow) }
    ctx := Ctx.reset
    seat := Seat.none
    phase := .free
    stalled := false
    late := []
    bad := []
    preempt := false
    prqSched := false }

/-- Every core of a task of partition `n` has swapped out. -/
def State.allHeld (s : State) (n : BitVec 4) (t : Task) : Bool := t.cores.all fun p => (s.core p).holds n t.tcb

/-- Every core of a task has stopped for the pre-emption or has swapped already. -/
def State.allStopped (s : State) (n : BitVec 4) (t : Task) : Bool :=
  t.cores.all fun p => s.swapReady p || (s.core p).holds n t.tcb

/-- R312, R313: SWAP. Once every core of its task has stopped, a core swaps its context into the shadow; with the last core
the task becomes SUSPENDED. -/
def execSwap (core : Nat) (s : State) : Out := s.unlessHeld fun s =>
  let c := s.core core
  let stopped := match (s.part c.seat.part).task c.seat.tcb with
    | some t => s.allStopped c.seat.part t
    | none => false
  if !s.swapReady core || !stopped then .next s
  else
    let n := c.seat.part
    let ts := match (s.part n).task c.seat.tcb with | some t => t.cores | none => []
    let s := (s.told ts).tell [core]
    let s := { s.setCore core (c.swapOut s.free) with free := s.free + 1 }.told [core]
    match (s.part n).task c.seat.tcb with
    | none => .next s
    | some t => if s.allHeld n t then .next ((s.setSt n t .suspended).taskEvent n t 0x09) else .next s

/-- A core swaps a context back (R313, R317). -/
def Core.swapIn (c : Core) (ph : Phase) (x : Ctx) (seat : Seat) : Core :=
  { c with
    ctx := x.resumeEngines.refill
    seat := seat
    phase := ph
    stalled := false
    trap := none
    preempt := false
    late := []
    bad := c.shadow.bad ++ c.bad.filter (· == .shadow)
    shadow := c.shadow.emptied }

/-- The sizes that a piece of an entry may have: an atomic has 8 bytes, a `vstadd` element 4 (R138, R190); `none` is a load's. -/
def pieceSizes (k : Option StKind) : List Nat :=
  match k with
  | some (.red _ _) => [8]
  | some (.add _) => [4]
  | _ => [1, 2, 4, 8]

/-- The place of a held access of core `p` after a resume: an address in the quire range reaches the cores of the new rectangle (R317).
With `all`, where the opaque areas were altered, every place is checked again over all its bytes, which an aligned piece of a size that its kind
may have keeps within one page, so that none reaches another task (R314). -/
def State.retarget (s : State) (p : Nat) (all : Bool) (k : Option StKind) (q : Piece) : Piece :=
  let va := q.va.toNat
  let gone := { q with en := false, done := true }
  let plain := k == none || k == some .plain
  if !(all || (decide (0xFF0000000000 ≤ va) && decide (va < 0xFF0001000000))) then q
  else if decide (va / 2 ^ 48 ≠ 0) || !(pieceSizes k).contains q.n || va % q.n != 0 then gone
  else match s.check p { rd := k == none || !plain, wr := k != none, win := q.n == 4 && plain } va q.n with
    | .ok pl => { q with place := pl }
    | _ => gone

/-- The held accesses of a core's context find their places (R317). -/
def State.retargetAll (s : State) (p : Nat) (all : Bool) : State :=
  s.mapCore p fun c => { c with ctx := { c.ctx with
    sq := c.ctx.sq.map fun e => { e with pieces := e.pieces.map (s.retarget p all (some e.kind)) }
    lq := c.ctx.lq.map fun l => { l with pieces := l.pieces.map (s.retarget p all none) } } }

/-- The commands of a queue in a context whose opaque areas were altered: those that the queue serves and that the sequencer would have let
in; a started one begins again, with every check of its start. -/
def Eng.tame (e : Eng) (c : Core) (q : EngQ) : Eng :=
  let keep := fun (l : List Cmd) => l.filter fun k =>
    opQueue k.op == q && ((k.op == .cpy && k.sched.isSome) || (issueTrap k.op c k.a).isNone)
  { e with
    queue := keep e.queue
    run := (keep e.run).map fun k => { k with st := .kept, run := { Run.fresh with desc := k.run.desc } }
    released := (keep e.released).map fun k => { k with st := .queued, run := { Run.fresh with desc := k.run.desc } } }

/-- The unspecified parts of a context whose opaque areas were altered affect no other task (R314): its commands meet their checks again,
and it binds no region. R210 does not say what becomes of the bindings that it had: that their regions stay registered is the model's choice
(log 60). -/
def Core.tamed (c : Core) : Core :=
  let x := c.ctx
  { c with ctx := { x with
    engMe := x.engMe.tame c .me
    engWs := x.engWs.tame c .ws
    engCe := x.engCe.tame c .ce
    engBank := x.engBank.tame c .bank
    fslots := x.fslots.map fun f => { f with bound := none } } }

/-- R306: a shadow that holds an uncorrectable error faults the resume; the fault record names the first such core, and its TPC and
CUT0 to CUT6, which no rule states, are free. That it holds TIME of die 0, there being no trap entry, and that regions which the lost contexts
bound stay registered (R210), is the model's choice (logs 46, 60). -/
def State.resumeFault (s : State) (n : BitVec 4) (t : Task) (cores : List Nat) : State :=
  let o := cores.headD 0
  let p := (cores.find? fun p => (s.core p).bad.contains .shadow).getD o
  let any := fun (i : Nat) => leBytes 8 (Config.freeWord (s.free + i)).toNat
  let rec' : List Byte := leBytes 8 (Cause.code .memerr) ++ any 0 ++ leBytes 8 3 ++ leBytes 8 0 ++ (run 1 7).flatMap any ++
    leBytes 4 (p + (p % 40 - o % 40) * 2 ^ 16 + (p / 40 - o / 40) * 2 ^ 21) ++ leBytes 4 0 ++ leBytes 8 s.time[0] ++
    List.replicate 24 (0 : Byte)
  let s := cores.foldl (fun (s : State) p =>
    let s := if (s.core p).bad.contains .shadow then s.internalErr p .sys LoopTag.none else s
    s.mapCore p fun c => { c with shadow := c.shadow.emptied, bad := c.bad.filter (· != .shadow) }) { s with free := s.free + 8 }
  let (bad, s) := s.putFault n t.faultp rec'
  (s.setSt n { t with fault := true, recfail := bad.isSome } .faulted).freeze n

/-- R313, R315: TASK_RESUME. All cores of a SUSPENDED task swap back together, from the HELD shadows of its rectangle or from
LOADED shadows of the rectangle that its record names now; its partition owns them all (R165). -/
def execTaskResume (part : BitVec 4) (tcb : Word) (s : State) : Out := s.unlessHeld fun s =>
  match ((s.part part).task tcb).filter (·.st == .suspended) with
  | none => .next s
  | some t =>
    let (r, s) := s.shapeRead part t
    let t := ((s.part part).task tcb).getD t
    let own := fun (l : List Nat) => l.all (s.part part).cown.contains
    let ready := fun (p : Nat) =>
      let h := (s.core p).shadow
      h.st == .loaded && h.seat.part == part && h.imageTcb == tcb
    let rect := match r with | some r => r.rect | none => []
    let loaded := rect != [] && rect.all ready
    let cores := if loaded then rect else t.cores
    if !(loaded || s.allHeld part t) || !own cores then .next s
    else
    let s := (s.told cores).readShapes part tcb
    let held := s.heldBack part tcb
    if !(cores.all fun p => !s.runsContext p && !held.contains p) then .next s
    else if cores.any fun p => (s.core p).bad.contains .shadow then .next (s.resumeFault part t cores)
    else
      let o := cores.headD 0
      let t := match loaded, r with
        | true, some r => { t with x := o % 40, y := o / 40, lw := r.lw, lh := r.lh }
        | _, _ => t
      let s := cores.foldl (fun s p =>
        let c := s.core p
        let (ph, x, altered) := c.shadow.content s.evictions s.free
        let seat : Seat := ⟨part, tcb, p % 40 - t.x, p / 40 - t.y, t.lw, t.lh, t.prio, t.needs⟩
        let x := if altered then ({ c with ctx := x, seat := seat } : Core).tamed.ctx else x
        { s.setCore p (c.swapIn ph x seat) with free := s.free + 1 }.retargetAll p altered) (s.tell cores)
      .next ((s.setSt part t .running).taskEvent part t 0x06)

/-! ### Retirement -/

/-- A task keeps the cause of a failed access of its retirement (R366). -/
def State.noteTask (s : State) (n : BitVec 4) (tcb : Word) (c : Cause) : State :=
  match (s.part n).task tcb with
  | some t => s.setPart n ((s.part n).setTask (t.note (some c)))
  | none => s

/-- The addresses at which the successors of a task stand: SUCC0 to SUCC7 of its record, or its list (R168, R366). R168 does not say what becomes
of a list with SUCC1 = 0, or at an address that is not 8-byte aligned: no successor, and the list read where it stands, are the model's choice
(log 17). -/
def State.succPlaces (s : State) (n : BitVec 4) (t : Task) : List Nat × State :=
  let a := t.tcb.toNat + 0x40
  if t.list then
    (match s.devGet n a 16 with
      | (.ok l, s') => ((List.range (min (fieldLE l 8 8) 65535)).map fun i => fieldLE l 0 8 + 8 * i, s')
      | (.error e, s') => ([], s'.noteTask n t.tcb e.1))
  else ((List.range 8).map fun i => a + 8 * i, s)

/-- A successor's update (R174): PRED falls or UNDER is set, ERR with an error token; a WAITING task whose PRED reaches 0
changes state. -/
def State.updateSucc (s : State) (n : BitVec 4) (tcb : Word) (err : Bool) (a : Nat) : State :=
  if a = 0 then s
  else
    let f := fun v =>
      let v := if bits v 63 32 = 0 then v ||| 2 ^ 17 else v - 2 ^ 32
      if err then v ||| 2 ^ 16 else v
    match s.devUpdate n (a + 0x18) f with
    | (.error c, s) => s.noteTask n tcb c
    | (.ok v, s) =>
      match (s.part n).task (w64 a) with
      | some u => if u.st = .waiting ∧ bits v 63 32 = 0 then s.setSt n u (if v.testBit 16 then .cancelled else .ready) else s
      | none => s

/-- A core runs or holds a task (R166). -/
def State.busyCore (s : State) (p : Nat) : Bool := s.runsContext p || s.holdsShadow p

/-- The tasks that a core runs or holds. -/
def State.tasksAt (s : State) (p : Nat) : List Word :=
  let c := s.core p
  (if c.phase == .free then [] else [c.seat.tcb]) ++
  (match c.shadow.st with
    | .empty => []
    | .held => [c.shadow.seat.tcb]
    | .loaded => ((s.loadedTask p).map (·.tcb)).toList)

/-- The release of a core may take effect: the tasks that it ran or held have retired (R166), and it runs and holds no task since
(log 50). -/
def State.mayRelease (s : State) (n : BitVec 4) (e : Nat × List Word) : Bool :=
  !s.busyCore e.1 && e.2.all fun tcb => ((s.part n).task tcb).isNone

/-- Cores whose release was pending leave the partition (R166). -/
def State.releaseCores (s : State) (n : BitVec 4) : State :=
  let q := s.part n
  let go := q.releasing.filter (s.mayRelease n)
  s.setPart n { q with
    cown := q.cown.filter fun p => !(go.map (·.1)).contains p
    releasing := q.releasing.filter fun e => !go.contains e }

/-- Every core of a task has halted. -/
def State.allHalted (s : State) (t : Task) : Bool :=
  t.cores.all fun p => (s.core p).phase == .halted && (s.core p).seat.tcb == t.tcb

/-- R174: RETIREMENT of a task whose cores have all halted or that is in a final state; it waits while the ring is full
(R341). -/
def execRetirement (part : BitVec 4) (tcb : Word) (s : State) : Out := s.unlessHeld fun s =>
  let q := s.part part
  match q.task tcb with
  | none => .next s
  | some t =>
    let ends := t.st == .running && s.allHalted t
    if !(ends || t.st.final) || (q.cqEn && (q.cqFull || !q.cqWait.isEmpty)) then .next s
    else
      let s := if ends then (s.told t.cores).setSt part t (if t.fault then .faulted else .done) else s
      let s := if ends then t.cores.foldl (fun s p => s.mapCore p fun c =>
        { c with phase := .free, prqSched := false, prqReq := false, stop := false, seat := Seat.none, ctx := Ctx.reset }) (s.tell t.cores) else s
      let t := ((s.part part).task tcb).getD t
      let err := t.st != .done
      let (places, s) := s.succPlaces part t
      let s := places.foldl (fun s a => match s.devGet part a 8 with
        | (.ok l, s') => s'.updateSucc part tcb err (leNat l)
        | (.error e, s') => s'.noteTask part tcb e.1) s
      let t := ((s.part part).task tcb).getD t
      let s := s.taskEvent part t 0x07
      let s := s.setPart part { s.part part with tasks := (s.part part).tasks.filter (·.tcb != tcb) }
      let s := { s with tiles := s.tiles.filter fun i => !(i.part == part && i.tcb == tcb) }
      let s := s.cqPost part ⟨tcb, 0, BitVec.ofNat 4 t.st.code, t.cause, t.recfail⟩
      .next (s.releaseCores part)

/-- R176: HANG, once for a task that has been RUNNING for its budget. -/
def execHang (part : BitVec 4) (tcb : Word) (s : State) : Out :=
  match (s.part part).task tcb with
  | none => .next s
  | some t =>
    if t.budget = 0 ∨ t.hung ∨ t.ran < t.budget * 4000 then .next s
    else
      let s := s.setPart part ((s.part part).setTask { t with hung := true })
      .next ((s.taskEvent part t 0x08).cqPost part ⟨tcb, 1, 3, 0, false⟩)

/-- R341: COMPLETION_ENTRY. -/
def execCompletionEntry (part : BitVec 4) (s : State) : Out := .next (s.cqDrain part)

/-- R175: FRZ_THAW. -/
def execFrzThaw (part : BitVec 4) (s : State) : Out := .next (s.setPart part { s.part part with frz := false })

/-! ### Ownership -/

/-- A core changes owner (R165, R327, R335): its scratchpad, accumulator store, break registers and counters are cleared. -/
def State.wipeCore (s : State) (p : Nat) : State :=
  let s := s.tell [p]
  let s := { s with
    mem := Memory.clear s.mem (spadKey p 0) (spadKey p (2 ^ 20))
    memBad := s.memBad.filter fun w => !(decide (spadKey p 0 / 8 ≤ w) && decide (w < spadKey p (2 ^ 20) / 8))
    memSoft := s.memSoft.filter fun w => !(decide (spadKey p 0 / 8 ≤ w) && decide (w < spadKey p (2 ^ 20) / 8)) }
  s.mapCore p fun c => { c with
    acc := Core.reset.acc
    accBad := []
    bpa := Core.reset.bpa
    wpa := Core.reset.wpa
    prof := { Core.reset.prof with en := c.prof.en } }

/-- One bit of a COWN write. -/
def State.cownBit (s : State) (n : BitVec 4) (p : Nat) (b : Bool) : State :=
  let q := s.part n
  let mine := q.cown.contains p
  if 640 ≤ p then s
  else if b then
    (if mine then s.setPart n { q with releasing := q.releasing.filter (·.1 != p) }
     else if (s.ownerOf p).isSome then s
     else (s.setPart n { q with cown := q.cown ++ [p] }).wipeCore p)
  else if !mine then s
  else if (q.releasing.map (·.1)).contains p then s
  else if s.busyCore p then s.setPart n { q with releasing := q.releasing ++ [(p, s.tasksAt p)] }
  else s.setPart n { q with cown := q.cown.filter (· != p) }

/-- A write of COWNk. -/
def State.cownWrite (s : State) (n : BitVec 4) (k : Nat) (v : Word) : State :=
  (List.range 64).foldl (fun s i => s.cownBit n (64 * k + i) (v.getLsbD i)) (s.releaseCores n)

/-- R166: COWN_WRITE. -/
def execCownWrite (part : BitVec 4) (k : Nat) (v : Word) (s : State) : Out :=
  if k < 10 then .next (s.cownWrite part k v) else .next s

/-- COWNk as read. -/
def Part.cownWord (q : Part) (k : Nat) : Word :=
  w64 ((List.range 64).foldl (fun w i => if q.cown.contains (64 * k + i) then w + 2 ^ i else w) 0)

/-- R185: TLBINV_GO. -/
def execTlbinvGo (part : BitVec 4) (s : State) : Out := .next (s.setPart part { s.part part with tlbGo := true })

/-- R185: INVALIDATION_COMPLETE. Every translation is discarded, and PTROOT and the bank masks take effect. -/
def execInvalidationComplete (part : BitVec 4) (s : State) : Out :=
  let q := s.part part
  if !q.tlbGo then .next s
  else .next (s.setPart part { q with
    tlb := [], tlbGo := false, rootNow := q.ptroot, banks0 := q.sbmask0, banks1 := q.sbmask1 })

/-- Forgets one binder of a region; without binders it is deregistered (R210). -/
def State.unbind (s : State) (n : BitVec 4) (win : Word) : State :=
  match s.regionOf n win with
  | none => s
  | some r =>
    if r.count ≤ 1 then { s with regions := s.regions.filter fun q => !(q.part == n && q.win == win) }
    else s.setRegion { r with count := r.count - 1 }

/-- The waits of a halt are over (R75, R295). -/
def Core.haltDone (c : Core) : Bool :=
  let x := c.ctx
  c.phase == .halting && c.trap.isNone && x.sq.isEmpty && x.vu.queue.isEmpty && x.lq.isEmpty &&
  [x.engMe, x.engWs, x.engCe, x.engBank].all (fun e => e.queue.isEmpty && e.run.isEmpty && e.released.isEmpty)

/-- R75: CORE_IDLE. The filter slots still bound are unbound (R210). A STOP is taken during the waits of a TASK-mode halt, whose word TPC
names (R175). -/
def execCoreIdle (core : Nat) (s : State) : Out :=
  let c := s.core core
  if c.phase == .halting && !c.sys && c.stop && c.trap.isNone then .next (s.raise core { cause := .stop })
  else if !c.haltDone then .next s
  else
    let n := c.seat.part
    let s := c.ctx.fslots.toList.foldl (fun s f => match f.bound with
      | some w => s.unbind n w
      | none => s) s
    let s := s.emit (some core) n core .sq 0x05 LoopTag.none 0
    .next (s.mapCore core fun c => { c with
      phase := .halted
      stalled := false
      prqReq := false
      stop := false
      ctx := { c.ctx with
        fslots := c.ctx.fslots.map fun f => { f with bound := none }
        loops := Vector.replicate 4 Loop.idle
        order := [] } })

end Sys2Proof.Machine
end

