-- ==== Sys2Proof/Machine/Debug.lean ====
section
/-!
DEFINITION. Debug: trace sinks and their events (R322 to R326), debug control and debug stops (R327 to R332), the SAMPLE
record (R322), and watchpoints (R328).
-/

namespace Sys2Proof.Machine

/-! ### Trace sinks -/

/-- A number of a sink, none beyond the system sink 16. -/
def sinkNo (i : Nat) : Option (Fin 17) := if h : i < 17 then some ⟨i, h⟩ else none

/-- A sink's register replaced. -/
def State.setSink (s : State) (i : Fin 17) (k : Sink) : State := { s with sinks := s.sinks.set i k }

/-- EN rises: the counters clear and SYNC is emitted (R324). -/
def State.sinkEnable (s : State) (i : Fin 17) : State :=
  let k := s.sinks[i]
  if k.en then s
  else (s.setSink i { k with
    ctl := k.ctl ||| 1, head := 0, tail := 0, drop := 0, lost := 0, wait := [], sync := [s.tsOf (s.sinkSrc i).2] }).syncRecord i

/-- The records that wait in units for a sink leave them: they meet it where it is no longer lossless (R325, R326). That they are lost where
it is disabled is the model's choice (log 60). -/
def State.sinkUnbuffer (s : State) (i : Fin 17) : State :=
  s.cores.foldl (fun s e =>
    let l := e.2.tbuf.filter fun r => r.2.1 == i.val
    l.foldl (fun s r => if (s.sinks[i]).en then s.sinkAccept i r.2.2 else s)
      (s.mapCore e.1 fun c => { c with tbuf := c.tbuf.filter fun r => r.2.1 != i.val })) s

/-- A write of TSBASE, TSCTL or TSTAIL, by its offset in the block (R324, R325). -/
def State.sinkWrite (s : State) (i : Fin 17) (o : Nat) (v : Word) : State :=
  let k := s.sinks[i]
  if o = 0 then (if k.en then s else s.setSink i { k with base := v &&& 0x7FFFFFF000 })
  else if o = 8 then
    let m : Word := if i.val = 16 then 0x1F1F1D else 0x1F1F1F
    let w := v &&& m
    let w := if k.en then (w &&& ~~~(0x1F00 : Word)) ||| (k.ctl &&& 0x1F00) else w
    if w.getLsbD 0 ∧ !k.en then (s.setSink i { k with ctl := w &&& ~~~(1 : Word) }).sinkEnable i
    else
      let s := s.setSink i { k with ctl := w }
      if k.en && k.lossless && !(w.getLsbD 0 && w.getLsbD 1) then s.sinkUnbuffer i else s
  else if o = 0x18 then (s.setSink i { k with tail := min v.toNat k.head }).sinkGo i
  else s

/-- A sink register as read. -/
def Sink.read (k : Sink) (o : Nat) : Word :=
  if o = 0 then k.base else if o = 8 then k.ctl else if o = 0x10 then w64 k.head
  else if o = 0x18 then w64 k.tail else if o = 0x20 then w64 k.drop else 0

/-- R324: SINK_ENABLE. -/
def execSinkEnable (sink : Nat) (s : State) : Out :=
  match sinkNo sink with
  | some i => .next (s.sinkEnable i)
  | none => .next s

/-- R322: SYNC, which a sink owes since TIME[39:0] wrapped to 0. -/
def execSync (sink : Nat) (s : State) : Out :=
  match sinkNo sink with
  | some i => .next (if (s.sinks[i]).en then s.syncRecord i else s)
  | none => .next s

/-- R325: DROP. -/
def execDrop (sink : Nat) (s : State) : Out :=
  match sinkNo sink with
  | some i => .next (s.sinkOwed i (·.sinkDrop i))
  | none => .next s

/-- The oldest waiting record of a unit reaches its sink (R326), after what the sink owes (R325). -/
def State.flushTrace (s : State) (p : Nat) (u : TrUnit) : State :=
  match (s.core p).tbuf.find? (·.1 == u) with
  | none => s
  | some e =>
    match sinkNo e.2.1 with
    | none => s
    | some i =>
      let out := fun (s : State) => s.mapCore p fun c => { c with tbuf := c.tbuf.erase e }
      if !(s.sinks[i]).en then out s
      else
        let s := s.syncRecord i
        if (s.sinks[i]).full then s else (out s).sinkOwed i (·.sinkOne i false e.2.2)

/-- The ME or the WS resumes: an `mload` or `wstream` that the stop discarded starts again (R263, R284, R285). -/
def Eng.restart (e : Eng) : Eng :=
  { e with run := e.run.map fun k =>
      if k.st = .running ∧ (k.op = .mload ∨ k.op = .wstream) then ({ k with run := { k.run with buf := [] } } : Cmd) else k }

/-- The loads that a stall of a unit discarded start again. -/
def Ctx.restart (x : Ctx) (u : TrUnit) : Ctx :=
  match u with
  | .me => { x with engMe := x.engMe.restart }
  | .ws => { x with engWs := x.engWs.restart }
  | _ => x

/-- How long a unit that stands has stood (R326). -/
def State.stallTicks (s : State) (core : Nat) (unit : TrUnit) : Nat :=
  match (s.core core).tstall.find? (·.1 == unit) with
  | some e => s.tsOf core - e.2
  | none => 0

/-- R326: STALL. A unit whose buffer has room again, and that has stood for `ticks`, resumes and records the length of the stall. -/
def execStall (core : Nat) (unit : TrUnit) (ticks : Nat) (s : State) : Out :=
  let c := s.core core
  if !(c.tstall.any (·.1 == unit)) || decide (8 ≤ (c.tbuf.filter (·.1 == unit)).length) || s.stallTicks core unit != ticks then .next s
  else
    let s := s.setCore core { c with tstall := c.tstall.filter (·.1 != unit), ctx := c.ctx.restart unit }
    .next (s.emit (some core) c.seat.part core unit 0x31 (c.loopTag Guard.always) (min ticks (2 ^ 37 - 1)))

/-- The word at the PC, if it can be fetched. -/
def State.wordAt (s : State) (p : Nat) : Option Code :=
  match s.fetch p with
  | .got w _ => some w
  | _ => none

/-- R323: SAMPLE, for the word at PC. -/
def execSample (core : Nat) (s : State) : Out :=
  let c := s.core core
  if c.phase != .running then .next s
  else
    let g := match s.wordAt core with | some w => wordGuard w | none => Guard.always
    .next (s.emit (some core) c.seat.part core .sq 0x02 (c.loopTag g) (bits c.ctx.pc.toNat 38 2))

/-! ### Breakpoints and watchpoints -/

/-- Bytes of a watched region (R327): 2^(SZ + 3), SZ above 12 read as 12. -/
def watchSize (w : Word) : Nat := 2 ^ (min (wbits w 59 56) 12 + 3)

/-- The first byte of an access that a watchpoint matches (R327, R328). -/
def watchHit (w : Word) (rd wr : Bool) (bytes : List Nat) : Option Nat :=
  let n := watchSize w
  if !w.getLsbD 63 || !((rd && w.getLsbD 62) || (wr && w.getLsbD 61)) then none
  else bytes.find? fun a => a / n == wbits w 47 3 * 8 / n

/-- The watchpoint that matches an access of a TASK-mode core: its number and the first matching byte. -/
def Core.watchAt (c : Core) (rd wr : Bool) (bytes : List Nat) : Option (Fin 4 × Nat) :=
  if c.sys then none
  else (List.finRange 4).findSome? fun i => (watchHit c.wpa[i] rd wr bytes).map fun a => (i, a)

/-- What a watchpoint makes of a word (R328 to R330): the word goes on, traps, waits for the debug stop, or goes on with a
stop to come at the end of its kernel iteration. -/
inductive Watch
  | go | trap (t : TrapInfo) | halt (c : Core) | mark (c : Core)

/-- The watchpoint check of an access. -/
def Core.watch (c : Core) (rd wr : Bool) (bytes : List Nat) : Watch :=
  if c.dbg.armed then .go
  else match c.watchAt rd wr bytes with
    | none => .go
    | some (i, a) =>
      if !c.dbg.claim then .trap { cause := .watch, tinfo := w64 i.val, taddr := w64 a }
      else
        let c' := if c.dbg.want.isSome then c
          else { c with dbg := { c.dbg with want := some (3, BitVec.ofNat 2 i.val), atIter := false } }
        if c.ctx.pipelined then .mark c' else .halt c'

/-! ### Debug control -/

/-- Is the debug port open at a scope that covers the core's partition (R329)? -/
def State.portOpen (s : State) (p : Nat) : Bool :=
  let d : BitVec 16 := if s.colo.lc = 0 ∨ s.colo.lc = 1 then 0xFFFF else s.colo.dport
  match s.ownerOf p with
  | some n => d.getLsbD n.toNat
  | none => d == 0xFFFF

/-- A debug stop is under way or complete: issue has stopped (R331). One that meets a stop already under way waits for its end. -/
def Core.dbgHolds (c : Core) : Bool := c.dbg.stopped || (c.dbgLands && !c.preempt && c.trap.isNone)

/-- DBGCTL as read (R329). -/
def Dbg.read (d : Dbg) : Word :=
  w64 ((if d.claim then 1 else 0) + (if d.stopped then 8 else 0) + (if d.step then 16 else 0) + d.which.toNat * 2 ^ 10 +
    d.reason.toNat * 2 ^ 12)

/-- The completions that a debug stop held are applied (R331). -/
def Core.applyHeld (c : Core) : Core :=
  let x := c.dbg.heldTok.foldl (fun (x : Ctx) t => x.tokenDone t.1 t.2) c.ctx
  let x := c.dbg.heldMp.foldl (fun (x : Ctx) t => x.milepost t.1 t.2) x
  { c with ctx := x, dbg := { c.dbg with heldTok := [], heldMp := [] } }

/-- RESUME (R331): the held completions are applied, then the sequencer runs on; with STEP it runs one step. -/
def State.debugResume (s : State) (p : Nat) : State :=
  let c := s.core p
  if !c.dbg.stopped then s
  else
    let c := c.applyHeld
    let s := s.setCore p { c with
      stalled := false
      dbg := { c.dbg with stopped := false, want := none, armed := c.dbg.step && c.dbg.claim, atIter := false } }
    s.emit (some p) c.seat.part p .sq 0x0B (c.loopTag Guard.always) 0

/-- HALTREQ (R329, R330). -/
def Core.haltreq (c : Core) : Core :=
  if !c.dbg.claim || c.dbg.stopped || c.dbg.want.isSome then c
  else { c with dbg := { c.dbg with want := some (1, 0), atIter := false } }

/-- CLAIM written; clearing it while STOPPED resumes the core (R329). -/
def State.setClaim (s : State) (p : Nat) (own : Bool) : State :=
  let s := s.mapCore p fun c => { c with dbg := { c.dbg with
    claim := own
    want := if own || c.dbg.stopped then c.dbg.want else none
    atIter := c.dbg.atIter && (own || c.dbg.stopped)
    armed := c.dbg.armed && own } }
  if own then s else
    (s.mapCore p fun c => if c.dbg.stopped then c else c.applyHeld).debugResume p

/-- A host write of DBGCTL (R329). -/
def State.dbgWrite (s : State) (p : Nat) (v : Word) : State :=
  if !s.portOpen p then s
  else
    let s := s.mapCore p fun c => { c with dbg := { c.dbg with step := v.getLsbD 4 } }
    let s := s.setClaim p (v.getLsbD 0)
    let s := if v.getLsbD 1 then s.mapCore p Core.haltreq else s
    if v.getLsbD 2 then s.debugResume p else s

/-- R329: HALTREQ of the host, whose message carries TIME (R319). -/
def execHaltreq (core : Nat) (s : State) : Out :=
  onCore core (fun s => if s.portOpen core then s.hear.mapCore core Core.haltreq else s.hear) s
/-- R331: RESUME. -/
def execResume (core : Nat) (s : State) : Out :=
  onCore core (fun s => if s.portOpen core then s.hear.debugResume core else s.hear) s
/-- R329: CLAIM. -/
def execClaim (core : Nat) (own : Bool) (s : State) : Out :=
  onCore core (fun s => if s.portOpen core then s.hear.setClaim core own else s.hear) s

/-- R331: DEBUG_STOP. The stop is complete once the VU has issued what was handed over, where its queue is not held (R302),
and every started engine command has run to completion. -/
def execDebugStop (core : Nat) (s : State) : Out :=
  let c := s.core core
  let idle := fun (e : Eng) => !e.run.any (fun k => k.st == .running)
  if c.dbg.stopped || !c.dbgLands || c.phase != .running || c.trap.isSome || c.preempt || (!c.sys && !c.ctx.vu.queue.isEmpty) ||
      !([c.ctx.engMe, c.ctx.engWs, c.ctx.engCe, c.ctx.engBank].all idle) then .next s
  else match c.dbg.want with
    | none => .next s
    | some (r, w) =>
      let s := { s.setCore core { c with
        ctx := c.ctx.writeBack
        dbg := { c.dbg with stopped := true, reason := r, which := w, want := none, armed := false, serial := s.free } }
        with free := s.free + 1 }
      .next (s.emit (some core) c.seat.part core .sq 0x0A (c.loopTag Guard.always) (r.toNat + w.toNat * 2 ^ 4))

/-- The debug window as read (R332). -/
def State.dbgWindow (s : State) (p o : Nat) : Word :=
  let c := s.core p
  if !c.dbg.stopped ∨ imageSize < o + 8 then 0 else w64 (fieldLE (c.ctx.image c.dbg.serial) o 8)

/-- A write of the debug window (R332): altered opaque areas leave those parts unspecified (R314). -/
def State.dbgWindowWrite (s : State) (p o : Nat) (v : Word) : State :=
  let c := s.core p
  if !c.dbg.stopped ∨ imageSize < o + 8 then s
  else
    let img := c.ctx.image c.dbg.serial
    let new := leBytes 8 v.toNat
    let get := fun a => if o ≤ a ∧ a < o + 8 then new.getD (a - o) 0 else img.getD a 0
    let same := (run o 8).all fun a => !isOpaque a || get a == img.getD a 0
    let base := if same then c.ctx else { Config.freeContext s.free with loops := c.ctx.loops, order := c.ctx.order }
    let d : Core := { c with ctx := ctxOf get base }
    let s := { s.setCore p (if same then d else d.tamed) with free := s.free + 1 }
    if same then s else s.retargetAll p true

end Sys2Proof.Machine
end

