-- ==== Sys2Proof/Machine/Life.lean ====
section
/-!
DEFINITION. Life: leases (R346 to R348), HBM channels and seals (R197, R200), power and start-up (R352 to R355), lifecycle and
wipes (R356, R357), the colophon's registers (R358 to R361, R364) and the unlock mailbox (R362).
-/

namespace Sys2Proof.Machine

/-! ### Leases -/

/-- A lease-table entry. -/
def State.lease (s : State) (e : Nat) : Lease := s.leases[e % 64]'(Nat.mod_lt _ (by decide))
/-- Replaces an entry. -/
def State.setLease (s : State) (e : Nat) (l : Lease) : State :=
  { s with leases := s.leases.set (e % 64) l (Nat.mod_lt _ (by decide)) }

/-- STATE changes of an entry that wait for room in a ring (R341), in the rings of all the partitions that it has named. -/
def State.leaseWaits (s : State) (e : Nat) : Nat :=
  ((s.parts.toList.flatMap (·.cqWait)).filter fun c => c.kind == 2 && wbits c.subj 5 0 == e % 64).length

/-- An entry changes STATE, which posts a KIND 2 entry (R347). -/
def State.leaseTo (s : State) (e : Nat) (l : Lease) (st : BitVec 3) : State :=
  (s.setLease e { l with st := st }).cqPost l.part ⟨w64 (e % 64 + st.toNat * 2 ^ 8), 2, 0, 0, false⟩

/-- A command of the host on an entry: held back (REASON 6), not allowed (REASON 5), or done. -/
def State.leaseCmd (s : State) (e : Nat) (ok : Lease → Bool) (f : Lease → State) : State :=
  let l := s.lease e
  if 4 ≤ s.leaseWaits e then s.setLease e { l with reason := 6 }
  else if !ok l then s.setLease e { l with reason := 5 } else f l

/-- GRACE as read: 0 is 100, 1 to 9 are 10 (R346). -/
def graceOf (g : BitVec 16) : BitVec 16 := if g = 0 then 100 else if g.toNat < 10 then 10 else g

/-- OFFER. -/
def State.leaseOffer (s : State) (e : Nat) : State :=
  s.leaseCmd e (fun l => !l.role && l.st == 0) fun l =>
    if l.base.toNat + 2 ^ 31 ≤ Config.hbmBytes then s.leaseTo e { l with deadline := BitVec.allOnes 64 } 1
    else s.setLease e { l with reason := 1 }

/-- ACCEPT with the lender's answer: 0, or the REASON it gives. -/
def State.leaseAccept (s : State) (e : Nat) (reason : BitVec 8) : State :=
  s.leaseCmd e (fun l => l.role && l.st == 0) fun l =>
    if reason = 0 then s.leaseTo e { l with deadline := BitVec.allOnes 64 } 2 else s.setLease e { l with reason := reason }

/-- REVOKE. -/
def State.leaseRevoke (s : State) (e : Nat) : State :=
  s.leaseCmd e (fun l => !l.role && (l.st == 1 || l.st == 2)) fun l =>
    s.leaseTo e { l with deadline := w64 (s.time[0] + 4000000 * (graceOf l.grace).toNat) } 3

/-- RELEASE. -/
def State.leaseRelease (s : State) (e : Nat) : State :=
  s.leaseCmd e (fun l => l.role && (l.st == 2 || l.st == 3)) fun l => s.leaseTo e l 4

/-- CLEAR. -/
def State.leaseClear (s : State) (e : Nat) : State :=
  s.leaseCmd e (fun l => l.st == 4 && (l.role || !l.wiping)) fun l => s.leaseTo e { l with deadline := 0 } 0

/-! The host's command, or the peer's message with which an entry moves, carries TIME (R319). -/

/-- R347: OFFER. -/
def execOffer (e : Nat) (s : State) : Out := .next (s.hear.leaseOffer e)

/-- R347: ACCEPT, by this package as borrower, or by the peer on this lender's entry. -/
def execAccept (e : Nat) (peer : PeerSide) (s : State) : Out :=
  let s := s.hear
  match peer with
  | .ours reason => .next (s.leaseAccept e reason)
  | .peers pkg _ sameKey =>
    let l := s.lease e
    if !l.role && l.st == 1 && l.peer == pkg && sameKey then .next (s.leaseTo e l 2) else .next s

/-- R347: REVOKE, by this lender, or told to this borrower with the deadline. -/
def execRevoke (e : Nat) (peer : PeerSide) (s : State) : Out :=
  let s := s.hear
  match peer with
  | .ours _ => .next (s.leaseRevoke e)
  | .peers pkg deadline _ =>
    let l := s.lease e
    if l.role && l.st == 2 && l.peer == pkg then .next (s.leaseTo e { l with deadline := deadline } 3) else .next s

/-- R347: RELEASE, by this borrower, or told to this lender, whose wipe starts. -/
def execRelease (e : Nat) (peer : PeerSide) (s : State) : Out :=
  let s := s.hear
  match peer with
  | .ours _ => .next (s.leaseRelease e)
  | .peers pkg _ _ =>
    let l := s.lease e
    if !l.role && (l.st == 2 || l.st == 3) && l.peer == pkg then .next (s.leaseTo e { l with wiping := true } 4) else .next s

/-- R347: CLEAR. -/
def execClear (e : Nat) (s : State) : Out := .next (s.hear.leaseClear e)

/-- R347: DEADLINE. The borrower hears of the lender's TIME, which is disciplined to within 16 ticks of its own (R319). -/
def execDeadline (e : Nat) (s : State) : Out :=
  let l := s.lease e
  if l.st != 3 then .next s
  else if l.role then (if l.deadline.toNat ≤ s.time[0] + 16 then .next (s.leaseTo e l 4) else .next s)
  else if l.deadline.toNat ≤ s.time[0] then .next (s.leaseTo e { l with wiping := true } 4) else .next s

/-- Zeroes HBM bytes and leaves whole stripes fresh (R195, R357). -/
def State.wipeHbm (s : State) (lo hi : Nat) : State :=
  let whole := fun (c : Nat) =>
    let sid := c / 32
    let base := sid / 50331648 * Config.stackBytes + sid % 50331648 * 960
    decide (lo ≤ base) && decide (base + 960 ≤ hi)
  { s with
    mem := Memory.clear s.mem lo hi
    hbm := { s.hbm with
      stale := s.hbm.stale.filter (!whole ·)
      crcBad := s.hbm.crcBad.filter (!whole ·)
      pending := s.hbm.pending.filter fun i => !whole (i * 32) } }

/-- R348: LENDER_WIPE_COMPLETE. -/
def execLenderWipeComplete (e : Nat) (s : State) : Out :=
  let l := s.lease e
  if !l.wiping then .next s
  else .next ((s.wipeHbm l.base.toNat (l.base.toNat + 2 ^ 31)).setLease e { l with wiping := false })

/-- LCTL and the other words of an entry as read (R346). -/
def Lease.read (l : Lease) (o : Nat) : Word :=
  if o = 0 then
    w64 (l.st.toNat + (if l.role then 8 else 0) + l.part.toNat * 2 ^ 4 + l.key.toNat * 2 ^ 8 + l.peer.toNat * 2 ^ 12 +
      l.lidx.toNat * 2 ^ 22 + l.reason.toNat * 2 ^ 32 + (graceOf l.grace).toNat * 2 ^ 40)
  else if o = 8 then (if l.role then 0 else l.base)
  else if o = 16 then l.deadline else 0

/-- A host write of the lease table (R346): fields in EMPTY, then the command. -/
def State.leaseWrite (s : State) (e o : Nat) (v : Word) : State :=
  let l := s.lease e
  if o = 0 then
    let s := if l.st = 0 then
        s.setLease e { l with
          role := v.getLsbD 3
          part := v.extractLsb' 4 4
          key := v.extractLsb' 8 4
          peer := v.extractLsb' 12 10
          lidx := v.extractLsb' 22 6
          grace := v.extractLsb' 40 16
          base := if v.getLsbD 3 then 0 else l.base }
      else s
    (match wbits v 31 28 with
      | 1 => s.leaseOffer e
      | 2 =>
        let a := (Config.leaseAnswer s.free).toNat
        { s with free := s.free + 1 }.hear.leaseAccept e (if a = 0 then 0 else BitVec.ofNat 8 (a + 1))
      | 3 => s.leaseRevoke e
      | 4 => s.leaseRelease e
      | 5 => s.leaseClear e
      | 0 => s
      | _ => s.setLease e { s.lease e with reason := 5 })
  else if o = 8 then (if l.st = 0 ∧ !l.role then s.setLease e { l with base := v &&& 0x7F80000000 } else s)
  else s

/-! ### HBM channels -/

/-- A channel's event (R198). It concerns no chunk, so that its PART is 0 is the model's choice (log 47). -/
def State.chanEvent (s : State) (stack ch evt : Nat) : State :=
  s.memEvent 0 (1000 + stack) .stack evt (stack + ch * 8)

/-- A channel's state replaced. -/
def State.setChan (s : State) (stack ch : Nat) (c : ChanSt) : State :=
  { s with hbm := { s.hbm with chans := put s.hbm.chans (stack * 32 + ch) c } }

/-- Stale chunks of a channel. -/
def Hbm.staleOf (h : Hbm) (stack ch : Nat) : List Nat :=
  h.stale.filter fun c => c % 32 == ch && c / 32 / 50331648 == stack

/-- The records that waited for a stripe or a channel (R197, R200) are written. -/
def State.sinksGo (s : State) : State := (List.finRange 17).foldl (fun (s : State) i => s.sinkGo i) s

/-- R197: RETRAIN_BEGIN. One channel of a group at a time, and none while the group holds stale chunks. -/
def execRetrainBegin (stack ch : Nat) (s : State) : Out :=
  let grp := run (ch / 16 * 16) 16
  if 8 ≤ stack ∨ 32 ≤ ch ∨ s.hbm.chan stack ch ≠ .ok ∨ grp.any (fun c => s.hbm.chan stack c == .retraining) ∨
      grp.any (fun c => !(s.hbm.staleOf stack c).isEmpty) then .next s
  else .next ((s.setChan stack ch .retraining).chanEvent stack ch 0x3A)

/-- R197: RETRAIN_END. A channel that fails to retrain is marked failed. -/
def execRetrainEnd (stack ch : Nat) (ok : Bool) (s : State) : Out :=
  if 8 ≤ stack ∨ 32 ≤ ch ∨ s.hbm.chan stack ch ≠ .retraining then .next s
  else
    let s := (s.setChan stack ch (if ok then .ok else .failed)).chanEvent stack ch 0x3B
    .next (if ok then s else s.chanEvent stack ch 0x3D).sinksGo

/-- R197: REBUILT. Every stale chunk of the channel has been rewritten from parity. -/
def execRebuilt (stack ch : Nat) (s : State) : Out :=
  let l := s.hbm.staleOf stack ch
  if 8 ≤ stack ∨ 32 ≤ ch ∨ s.hbm.chan stack ch ≠ .ok ∨ l.isEmpty ∨ l.any (fun c => decide (2 ≤ (s.hbm.missing (c / 32)).length)) then
    .next s
  else
    let s := { s with hbm := { s.hbm with stale := s.hbm.stale.filter fun c => !l.contains c } }
    .next (s.chanEvent stack ch 0x3C)

/-! ### Wipes and lifecycle -/

/-- R357: a wipe of HBM, the spine store and every scratchpad, accumulator store, lay-by and shadow context. -/
def State.wipe (s : State) : State :=
  { s with
    mem := Memory.clear s.mem 0 (2 ^ 50)
    memBad := s.memBad.filter fun w => decide (2 ^ 50 / 8 ≤ w)
    memSoft := s.memSoft.filter fun w => decide (2 ^ 50 / 8 ≤ w)
    tiles := []
    hbm := { s.hbm with stale := [], crcBad := [], pending := [] }
    evictions := []
    cores := s.cores.map fun (p, c) =>
      (p, { c with
        acc := Core.reset.acc
        accBad := []
        shadow := c.shadow.emptied
        bad := c.bad.filter (· != .shadow) }) }

/-- May a command wipe start (R357)? -/
def State.mayWipe (s : State) : Bool :=
  s.parts.toList.all fun q => !q.en && q.tasks.all fun t => t.st != .running && t.st != .suspended

/-- The transitions of the lifecycle (R356). -/
def lcNext : Nat → List Nat
  | 0 => [1] | 1 => [2, 3, 6] | 2 => [3, 6] | 3 => [4, 5, 6] | 4 => [3, 5, 6] | 5 => [6] | _ => []

/-- Changes the colophon's registers. -/
def State.mapColo (s : State) (f : Colo → Colo) : State := { s with colo := f s.colo }

/-- LCREQ (R356). Entering TEST generates the device identity key (R361). -/
def State.lcreq (s : State) (v : Word) : State :=
  if (lcNext s.colo.lc.toNat).contains (wbits v 2 0) then
    let s := s.wipe.mapColo fun c => { c with dport := 0, lc := v.setWidth 3 }
    if wbits v 2 0 = 1 then { s with free := s.free + 1 }.mapColo fun c => { c with identity := some s.free } else s
  else s.mapColo fun c => { c with lcerr := true }

/-- MWIPE (R364): DONE and ERR clear; then BUSY, or ERR where R357 refuses. -/
def State.mwipe (s : State) (v : Word) : State :=
  if !v.getLsbD 0 then s.mapColo fun c => { c with mwDone := false, mwErr := false }
  else if s.mayWipe then s.mapColo fun c => { c with mwDone := false, mwErr := false, mwBusy := true, mwAfterGo := true }
  else s.mapColo fun c => { c with mwDone := false, mwErr := true }

/-- The wipe completes (R364). -/
def State.wipeDone (s : State) : State :=
  if !s.colo.mwBusy then s else s.wipe.mapColo fun c => { c with mwBusy := false, mwDone := c.mwAfterGo }

/-- SHACTL: INIT starts a hash; FINAL completes the open one (R358). -/
def State.shactl (s : State) (v : Word) : State :=
  let s := if v.getLsbD 0 then s.mapColo fun c => { c with hash := some [] } else s
  match v.getLsbD 1, s.colo.hash with
  | true, some m => s.mapColo fun c => { c with hash := none, shadig := sha512 m }
  | _, _ => s

/-- SHAIN: absorbs 8 bytes, bits [7:0] first; ignored when no hash is open. -/
def State.shain (s : State) (v : Word) : State :=
  s.mapColo fun c => { c with hash := c.hash.map fun m => m ++ leBytes 8 v.toNat }

/-- ECCTL.GO (R364). -/
def State.ecGo (s : State) : State :=
  s.mapColo fun c => { c with ecstat := 1, mwDone := false, mwAfterGo := false, keysWiped := false }

/-- Four fresh random doublewords. -/
def freshNonce (n : Nat) : Vector Word 4 := Vector.ofFn fun i => Config.freeWord (n + i.val)

/-- A 521-bit operand in 72 bytes: its number, none where bytes 66 to 71 are not zero (R358). -/
def operand521 (l : List Byte) : Option Nat := if (l.drop 66).all (· == 0) then some (leNat (l.take 66)) else none

/-- The verify completes (R358, R364): ECSTAT 2 or 3, NONCE renewed. -/
def State.ecDone (s : State) : State :=
  let c := s.colo
  if c.ecstat ≠ 1 then s
  else
    let ok := match operand521 c.qx, operand521 c.qy, operand521 c.sr, operand521 c.ss with
      | some x, some y, some r, some t => ecVerify c.shadig x y r t
      | _, _, _, _ => false
    { s with colo := { c with ecstat := (if ok then 2 else 3), nonce := freshNonce s.free }, free := s.free + 4 }

/-- KWIPE (R358, R360). -/
def State.kwipe (s : State) (v : Word) : State :=
  if !v.getLsbD 0 then s
  else
    let s := { s with parts := s.parts.map fun (q : Part) => ({ q with key := List.replicate 32 (0 : Byte) } : Part) }
    s.mapColo fun c => { c with keysWiped := c.keysWiped || c.ecstat == 2 || c.ecstat == 3 }

/-- AMEXT (R358). -/
def State.amext (s : State) (v : Word) : State :=
  let i := wbits v 2 0 % 8
  s.mapColo fun c =>
    { c with am := c.am.set i (sha512 (c.am[i]'(Nat.mod_lt _ (by decide)) ++ c.shadig)) (Nat.mod_lt _ (by decide)) }

/-- The conditions of R360 for a nonzero DPORT. -/
def Colo.mayOpen (c : Colo) : Bool :=
  c.ecstat == 2 && c.keysWiped && c.mwDone && (c.lc == 2 || c.lc == 4 || c.lc == 5)

/-- A write of DPORT (R360). -/
def State.dportWrite (s : State) (v : Word) : State :=
  let c := s.colo
  if c.lc = 0 ∨ c.lc = 1 then s
  else if v.setWidth 16 = (0 : BitVec 16) then s.mapColo fun c => { c with dport := 0 }
  else if c.mayOpen then s.mapColo fun c => { c with dport := v.setWidth 16 } else s

/-- COLST (R358). -/
def Colo.status (c : Colo) : Word :=
  w64 ((if c.ready then 1 else 0) + (if c.fwbad then 2 else 0) + (if c.trapped then 4 else 0) + (if c.lcerr then 8 else 0))

/-- LC as read, with BOOTCNT (R358). -/
def Colo.lcWord (c : Colo) : Nat := c.lc.toNat + c.bootcnt.toNat * 2 ^ 32

/-- 8 bytes of a byte list at an offset, as a word. -/
def dwordOf (l : List Byte) (o : Nat) : Word := w64 (fieldLE l o 8)

/-- A read of a colophon register at an 8-byte aligned offset (R358); an offset without a register reads zero (R367). -/
def State.coloRead (s : State) (o : Nat) : Word × State :=
  let c := s.colo
  let uk := (List.range 64).map Config.ukHash
  if o = 0 then (Config.devId.1, s)
  else if o = 8 then (Config.devId.2, s)
  else if o = 0x10 then (w64 c.lcWord, s)
  else if 0x20 ≤ o ∧ o < 0x60 then (dwordOf uk (o - 0x20), s)
  else if o = 0x100 then (Config.freeWord s.free, { s with free := s.free + 1 })
  else if 0x140 ≤ o ∧ o < 0x160 then (c.nonce[(o - 0x140) / 8 % 4]'(Nat.mod_lt _ (by decide)), s)
  else if 0x240 ≤ o ∧ o < 0x280 then (dwordOf c.shadig (o - 0x240), s)
  else if o = 0x308 then (c.ecstat.setWidth 64, s)
  else if o = 0x908 then
    (w64 ((if c.mwBusy then 1 else 0) + (if c.mwDone then 2 else 0) + (if c.mwErr then 4 else 0)), s)
  else if o = 0xA00 then (if c.lc = 0 ∨ c.lc = 1 then 0xFFFF else c.dport.setWidth 64, s)
  else if o = 0xA10 then (c.status, s)
  else if 0xC00 ≤ o ∧ o < 0xE00 then
    (dwordOf (c.am[(o - 0xC00) / 64 % 8]'(Nat.mod_lt _ (by decide))) ((o - 0xC00) % 64), s)
  else (0, s)

/-- Replaces 8 bytes of a 72-byte operand. -/
def putOperand (l : List Byte) (o : Nat) (v : Word) : List Byte := l.take o ++ leBytes 8 v.toNat ++ l.drop (o + 8)

/-- Does a store to a colophon register meet a busy engine (R358)? -/
def Colo.busy (c : Colo) (o : Nat) : Bool :=
  (c.ecstat == 1 && decide (0x300 ≤ o) && decide (o < 0x600)) || (c.mwBusy && o == 0x900)

/-- A store to a colophon register performs (R358). -/
def State.coloWrite (s : State) (o : Nat) (v : Word) : State :=
  if o = 0x200 then s.shactl v
  else if o = 0x208 then s.shain v
  else if o = 0x300 then (if v.getLsbD 0 then s.ecGo else s)
  else if 0x400 ≤ o ∧ o < 0x448 then s.mapColo fun c => { c with qx := putOperand c.qx (o - 0x400) v }
  else if 0x480 ≤ o ∧ o < 0x4C8 then s.mapColo fun c => { c with qy := putOperand c.qy (o - 0x480) v }
  else if 0x500 ≤ o ∧ o < 0x548 then s.mapColo fun c => { c with sr := putOperand c.sr (o - 0x500) v }
  else if 0x580 ≤ o ∧ o < 0x5C8 then s.mapColo fun c => { c with ss := putOperand c.ss (o - 0x580) v }
  else if o = 0x600 then s.kwipe v
  else if o = 0x800 then s.amext v
  else if o = 0x900 then s.mwipe v
  else if o = 0xA00 then s.dportWrite v
  else if o = 0xA08 then s.lcreq v
  else s

/-- R356: LCREQ. -/
def execLcreq (v : Word) (s : State) : Out := .next (s.lcreq v)
/-- R357, R364: MWIPE. -/
def execMwipe (v : Word) (s : State) : Out := .next (if s.colo.mwBusy then s else s.mwipe v)
/-- R364: WIPE_COMPLETE. -/
def execWipeComplete (s : State) : Out := .next s.wipeDone
/-- R358: SHACTL.INIT. -/
def execShactlInit (s : State) : Out := .next (s.shactl 1)
/-- R358: SHACTL.FINAL. -/
def execShactlFinal (s : State) : Out := .next (s.shactl 2)
/-- R358: SHAIN. -/
def execShain (v : Word) (s : State) : Out := .next (s.shain v)
/-- R364: ECCTL.GO. -/
def execEcctlGo (s : State) : Out := .next (if s.colo.ecstat = 1 then s else s.ecGo)
/-- R364: VERIFY_COMPLETE. -/
def execVerifyComplete (s : State) : Out := .next s.ecDone
/-- R358: KWIPE. -/
def execKwipe (v : Word) (s : State) : Out := .next (s.kwipe v)
/-- R358: AMEXT. -/
def execAmext (v : Word) (s : State) : Out := .next (s.amext v)
/-- R360: DPORT. -/
def execDport (v : Word) (s : State) : Out := .next (s.dportWrite v)
/-- R358: RNG, read by the colophon into g[d]. -/
def execRng (d : BitVec 5) (s : State) : Out :=
  let r := s.coloRead 0x100
  .next (r.2.mapCore Config.colophon fun c => c.setG d r.1)
/-- Measurement block `i` as a raw value (R361): AM0 to AM7 are blocks 1 to 8, and block 9 is LC, the 8 bytes of its register (R358, R362),
which is the model's reading (log 48). -/
def Colo.measurement (c : Colo) (i : Nat) : List Byte :=
  if h : 1 ≤ i ∧ i ≤ 8 then c.am[i - 1]'(by omega) else leBytes 8 c.lcWord

/-- The measurement blocks that a request asks for: the operation of GET_MEASUREMENTS, request code 0xE0, is byte 3, an index or 0xFF for
all (DMTF SPDM 1.3, log 48). -/
def spdmBlocks (req : List Byte) : List Nat :=
  if fieldLE req 1 1 ≠ 0xE0 then []
  else if fieldLE req 3 1 = 0xFF then run 1 9
  else (run 1 9).filter (· == fieldLE req 3 1)

/-- R361: SPDM_REQUEST, in a message that carries TIME (R319); the message that answers is the colophon's by DMTF SPDM 1.3, and it reports the blocks asked for. -/
def execSpdmRequest (req : List Byte) (s : State) : Out :=
  let s := s.hear
  let blocks := (spdmBlocks req).map fun i => (i, s.colo.measurement i)
  .next { s with
    colo := { s.colo with spdm := s.colo.spdm ++ [⟨blocks, Config.spdmAnswer s.free req⟩] }
    free := s.free + 1 }

/-- Is an offset of the unlock mailbox shown as zero (R362)? It reads zero and ignores writes (R367). -/
def mailZero (o : Nat) : Bool := (decide (0x170 ≤ o) && decide (o < 0x180)) || (decide (0x1B8 ≤ o) && decide (o < 0x200))

/-- A host read of the unlock mailbox (R362). -/
def State.mailRead (s : State) (o : Nat) : Word := if mailZero o then 0 else w64 (s.peek (coloData + 0xF000 + o) 8)

/-- A host write of the unlock mailbox (R362). -/
def State.mailWrite (s : State) (o : Nat) (v : Word) : State :=
  if 0x200 < o + 8 ∨ o % 8 ≠ 0 ∨ mailZero o ∨ s.peek (coloData + 0xF160) 1 % 2 = 1 then s
  else s.poke (coloData + 0xF000 + o) (leBytes 8 v.toNat)

/-! ### Power and start-up -/

/-- The thermal trip (R353): the clocks of the compute dies and the HBM stop, and THERM.TRIP is set (R352); the event goes to DEVEVT and
vector 16. -/
def State.trip (s : State) (loc : BitVec 2) (stack : BitVec 3) (temp : BitVec 12) : State :=
  let r := traceRec s.time[0] 0 1023 .sys 0x3F LoopTag.none
    (temp.toNat + loc.toNat * 2 ^ 12 + (if loc = 2 then stack.toNat * 2 ^ 14 else 0))
  { s with tripped := true, therm := true, temp := temp }.devNote r

/-- A junction at this temperature trips the device (R353). -/
def tripsAt (temp : BitVec 12) : Bool := decide (110 ≤ temp.toInt)

/-- R353: TRIP, of a junction that has reached 110 °C, on CD0, CD1 or an HBM stack (R322). -/
def execTrip (loc : BitVec 2) (stack : BitVec 3) (temp : BitVec 12) (s : State) : Out :=
  .next (if tripsAt temp ∧ loc ≠ 3 then s.trip loc stack temp else s)

/-- The governor's readings of power and of the hottest junction, which PWRNOW shows (R352), and its stack activity budgets (R353), never below
1,024 units (R201). A hottest junction of 110 °C or more trips the device; where that junction lies is then free. -/
def State.governed (s : State) (power temp : BitVec 12) (budget : List Nat) : State :=
  let cap : Vector Nat 8 := Vector.ofFn fun i => max 1024 (budget.getD i.val Config.budgetFull)
  let t : State := { s with
    power := power
    temp := temp
    hbm := { s.hbm with
      capacity := cap
      budget := Vector.ofFn fun i => min (s.hbm.budget[i]) (cap[i]) } }
  if tripsAt temp then
    ({ t with free := s.free + 1 } : State).trip (BitVec.ofNat 2 ((Config.freeWord s.free).toNat % 3)) ((Config.freeWord s.free).extractLsb' 2 3) temp
  else t

/-- Readings without a slowing: also that of the coldest junction, which may hold the compute domains (R354). -/
def State.readings (s : State) (power temp coldest : BitVec 12) (budget : List Nat) : State :=
  { s.governed power temp budget with
    coldest := coldest
    cold := s.cold || (!s.released && decide (coldest.toInt < -25)) }

/-- R353: GOVERNOR_SLOWING. -/
def execGovernorSlowing (power temp : BitVec 12) (budget : List Nat) (s : State) : Out :=
  .next { s.governed power temp budget with throt := true }

/-- R338: DEVEVT_READ by the host: the oldest event is consumed and vector 16's pending state clears. -/
def execDevevtRead (s : State) : Out :=
  let s := s.hear
  .next { s with
    devevt := s.devevt.drop 1
    msi := s.msi.filter (· != 16)
    replies := s.replies ++ [⟨0, false, leBytes 8 (s.devevt.headD 0).toNat⟩] }

/-- The firmware image verifies (R354): its key has the fused hash, taken over Qx ‖ Qy as UKHASH is (R363; log 48), and (r, t) signs it. -/
def firmwareOk (image : List Byte) (sig : FirmwareSig) : Bool :=
  sig.key.length == 144 && sha512 sig.key == (List.range 64).map Config.fwHash &&
  match operand521 (sig.key.take 72), operand521 (sig.key.drop 72) with
  | some x, some y => ecVerify (sha512 image) x y sig.r sig.t
  | _, _ => false

/-- R354, R355: DEVICE_RESET. The colophon counts the boot, renews NONCE, verifies the firmware image, whose digest AM0 takes,
and every memory is wiped; the compute domains wait for their release. The product, the fuses, TIME, the colophon's own memories and the
free values go on. In END the device wipes and halts. -/
def execDeviceReset (image : List Byte) (sig : FirmwareSig) (s : State) : Out :=
  let new := State.reset
  let fwOk := firmwareOk image sig
  let stops := !fwOk || s.colo.lc == 6
  .next { new with
    product := s.product
    plim := s.product.rating
    mem := s.mem.filter fun c => decide (coloCode ≤ c.1)
    time := s.time
    free := s.free + 4
    agenda := s.agenda
    released := false
    coldest := s.coldest
    cold := decide (s.coldest.toInt < -25)
    cores := [(Config.colophon, if stops then { Core.resetColophon with phase := .halted } else Core.resetColophon)]
    colo := { new.colo with
      lc := s.colo.lc
      identity := s.colo.identity
      bootcnt := s.colo.bootcnt + 1
      nonce := freshNonce s.free
      am := if fwOk then new.colo.am.set 0 (sha512 (List.replicate 64 0 ++ sha512 image)) else new.colo.am
      ready := false
      fwbad := !fwOk } }

/-- R354: COMPUTE_RELEASE. Once a junction has read below −25 °C, the compute domains stay in reset until every junction reads −20 °C or
above (R4). -/
def execComputeRelease (s : State) : Out :=
  if s.released ∨ s.colo.fwbad ∨ s.colo.lc = 6 then .next s
  else if s.coldest.toInt < (if s.cold then -20 else -25) then .next s
  else .next { s with released := true, colo := { s.colo with ready := true } }

end Sys2Proof.Machine
end

