-- ==== Sys2Proof/Machine/Mmio.lean ====
section
/-!
DEFINITION. Mmio: the registers behind the MMIO map (R166, R185, R292, R308, R324, R329, R335, R338, R339, R342, R352, R367),
read and written by cores in SYSTEM mode and by the host (R337), and the events that are writes of one register.
-/

namespace Sys2Proof.Machine

/-- An index below 4, by remainder. -/
def fin4 (i : Nat) : Fin 4 := ⟨i % 4, Nat.mod_lt _ (by decide)⟩

/-! ### Partition launch blocks -/

/-- A launch-block register as read. -/
def State.launchRead (s : State) (n : BitVec 4) (o : Nat) : Word :=
  let q := s.part n
  if o < 0x20 then q.qbase[fin4 (o / 8)]
  else if o = 0x20 then q.qlog
  else if 0x40 ≤ o ∧ o < 0x60 then w64 q.qhead[fin4 ((o - 0x40) / 8)]
  else if 0x60 ≤ o ∧ o < 0x80 then w64 q.qtail[fin4 ((o - 0x60) / 8)]
  else if o = 0x80 then w64 ((if q.en then 1 else 0) + (if q.frz then 2 else 0))
  else if 0xA0 ≤ o ∧ o < 0xF0 then q.cownWord ((o - 0xA0) / 8)
  else if o = 0x100 then q.ptroot
  else if o = 0x108 then q.sbmask0
  else if o = 0x110 then q.sbmask1
  else if o = 0x118 then (if q.tlbGo then 1 else 0)
  else if o = 0x120 then q.tvecp
  else if 0x140 ≤ o ∧ o < 0x168 then (s.sinks[n.toNat]'(Nat.lt_of_lt_of_le n.isLt (by decide))).read (o - 0x140)
  else if o = 0x180 then q.cqBase
  else if o = 0x188 then w64 (q.cqLog * 2 ^ 8 + (if q.cqIen then 2 else 0) + (if q.cqEn then 1 else 0))
  else if o = 0x190 then w64 q.cqHead
  else if o = 0x198 then w64 q.cqTail
  else if o = 0x1A0 then w64 q.cqDrop
  else 0

/-- CQCTL.EN rises (R339). -/
def State.cqEnable (s : State) (n : BitVec 4) : State :=
  let q := s.part n
  if q.cqEn then s else s.setPart n { q with cqEn := true, cqHead := 0, cqTail := 0, cqDrop := 0 }

/-- A write of CQCTL (R339). -/
def State.cqctlWrite (s : State) (n : BitVec 4) (v : Word) : State :=
  let q := s.part n
  let s := s.setPart n { q with cqIen := v.getLsbD 1, cqLog := if q.cqEn then q.cqLog else wbits v 12 8 }
  if v.getLsbD 0 then s.cqEnable n else s.setPart n { s.part n with cqEn := false }

/-- A write of CQTAIL (R338, R339): beyond CQHEAD it is read as CQHEAD; a host's write clears the vector's pending state. -/
def State.cqtailWrite (s : State) (host : Bool) (n : BitVec 4) (v : Word) : State :=
  let q := s.part n
  let s := s.setPart n { q with cqTail := min v.toNat q.cqHead }
  if host then { s with msi := s.msi.filter (· != n.toNat) } else s

/-- A launch-block register written. EN takes no 1 while a command wipe runs (R350, log 48). -/
def State.launchWrite (s : State) (host : Bool) (n : BitVec 4) (o : Nat) (v : Word) : State :=
  let q := s.part n
  if o < 0x20 then (if q.en then s else s.setPart n { q with qbase := q.qbase.set (fin4 (o / 8)) (v &&& ~~~(0xFFF : Word)) })
  else if o = 0x20 then (if q.en then s else s.setPart n { q with qlog := v &&& 0x1F })
  else if 0x60 ≤ o ∧ o < 0x80 then s.setPart n { q with qtail := q.qtail.set (fin4 ((o - 0x60) / 8)) v.toNat }
  else if o = 0x80 then s.setPart n { q with en := v.getLsbD 0 && (q.en || !s.colo.mwBusy), frz := q.frz && !v.getLsbD 1 }
  else if 0xA0 ≤ o ∧ o < 0xF0 then s.cownWrite n ((o - 0xA0) / 8) v
  else if o = 0x100 then s.setPart n { q with ptroot := v &&& 0xFFFFFFF00000 }
  else if o = 0x108 then s.setPart n { q with sbmask0 := v }
  else if o = 0x110 then s.setPart n { q with sbmask1 := v }
  else if o = 0x118 then (if v.getLsbD 0 then s.setPart n { q with tlbGo := true } else s)
  else if o = 0x120 then s.setPart n { q with tvecp := v &&& 0xFFFFFFFFFFFC }
  else if 0x140 ≤ o ∧ o < 0x168 then s.sinkWrite ⟨n.toNat, Nat.lt_of_lt_of_le n.isLt (by decide)⟩ (o - 0x140) v
  else if o = 0x180 then (if q.cqEn then s else s.setPart n { q with cqBase := v &&& 0x7FFFFFF000 })
  else if o = 0x188 then s.cqctlWrite n v
  else if o = 0x198 then s.cqtailWrite host n v
  else s

/-! ### PRQ, profiling, device registers -/

/-- PRQ as read (R308). -/
def Core.prqRead (c : Core) : Word :=
  w64 ((if c.prqReq then 1 else 0) + (if c.prqSched then 2 else 0) + (if c.ctx.loops.toList.any (·.drain.isSome) || (c.ctx.refilling && !c.sys) then 4 else 0))

/-- A write of PRQ.REQ (R308); an idle core clears the request without acting on it (R75). -/
def Core.prqWrite (c : Core) (v : Word) : Core :=
  { c with prqReq := v.getLsbD 0 && (c.phase == .running || c.phase == .halting) }

/-- A counter at an offset of the profiling block (R335). -/
def Prof.read (f : Prof) (o : Nat) : Word :=
  if o < 0xE0 then (f.cls[o / 8 % 28]'(Nat.mod_lt _ (by decide))).setWidth 64
  else if 0x100 ≤ o ∧ o < 0x2F8 then (f.tok[(o - 0x100) / 8 % 63]'(Nat.mod_lt _ (by decide))).setWidth 64
  else if 0x300 ≤ o ∧ o < 0x600 then (f.bar[(o - 0x300) / 8 % 96]'(Nat.mod_lt _ (by decide))).setWidth 64
  else if 0x600 ≤ o ∧ o < 0x700 then (f.wmk[(o - 0x600) / 8 % 32]'(Nat.mod_lt _ (by decide))).setWidth 64
  else if o = 0xF00 then (if f.en then 1 else 0)
  else 0

/-- PCTL.CLR (R335). -/
def Prof.clear (f : Prof) : Prof := { Core.reset.prof with en := f.en }

/-- A write of the profiling block. -/
def Prof.write (f : Prof) (o : Nat) (v : Word) : Prof :=
  let x : BitVec 48 := v.setWidth 48
  if o < 0xE0 then { f with cls := f.cls.set (o / 8 % 28) x (Nat.mod_lt _ (by decide)) }
  else if 0x100 ≤ o ∧ o < 0x2F8 then { f with tok := f.tok.set ((o - 0x100) / 8 % 63) x (Nat.mod_lt _ (by decide)) }
  else if 0x300 ≤ o ∧ o < 0x600 then { f with bar := f.bar.set ((o - 0x300) / 8 % 96) x (Nat.mod_lt _ (by decide)) }
  else if 0x600 ≤ o ∧ o < 0x700 then { f with wmk := f.wmk.set ((o - 0x600) / 8 % 32) x (Nat.mod_lt _ (by decide)) }
  else if o = 0xF00 then
    let f := if v.getLsbD 1 then f.clear else f
    { f with en := v.getLsbD 0 }
  else f

/-- A device register as read (R338, R342, R352, R358). -/
def State.deviceRead (s : State) (o : Nat) : Word :=
  if o = 0 then s.pkgid.setWidth 64
  else if o = 8 then s.exbase
  else if o = 0x10 then s.devevt.headD 0
  else if o = 0x18 then s.colo.status
  else if o = 0x20 then w64 s.plim
  else if o = 0x28 then w64 (s.power.toNat + s.temp.toNat * 2 ^ 16)
  else if o = 0x30 then w64 ((if s.throt then 1 else 0) + (if s.therm then 2 else 0))
  else 0

/-- A device register written by the host. -/
def State.deviceWrite (s : State) (o : Nat) (v : Word) : State :=
  if o = 0 then (if s.started then s else { s with pkgid := v.setWidth 10 })
  else if o = 8 then { s with exbase := v &&& 0x7FFFFFE001 }
  else if o = 0x20 then { s with plim := min (max (wbits v 11 0) 600) s.product.rating }
  else if o = 0x30 then { s with throt := s.throt && !v.getLsbD 0, therm := s.therm && !v.getLsbD 1 }
  else s

/-! ### The map -/

/-- An 8-byte read of the MMIO range: the value and the state after it. -/
def State.mmioRead (s : State) (host : Bool) (va : Nat) : Word × State :=
  let o := va - 0xFFFF00000000
  match mmioBlock va with
  | some .launch =>
    let n := BitVec.ofNat 4 ((o - 0x10000) / 0x1000)
    ((s.releaseCores n).launchRead n (o % 0x1000), s.releaseCores n)
  | some .prq => ((s.core ((o - 0x20000) / 8)).prqRead, s)
  | some .sysTrace => (s.sinks[16].read (o % 0x1000), s)
  | some .dbgctl =>
    let p := (o - 0x40000) / 8
    (if s.portOpen p then (s.core p).dbg.read else 0, s)
  | some .lease => ((s.lease ((o - 0x50000) / 32)).read (o % 32), s)
  | some .device =>
    (s.deviceRead (o % 0x1000),
      if host && o % 0x1000 == 0x10 then { s with devevt := s.devevt.drop 1, msi := s.msi.filter (· != 16) } else s)
  | some .mailbox => (s.mailRead (o % 0x1000), s)
  | some .profile => ((s.core ((o - 0x80000) / 0x1000)).prof.read (o % 0x1000), s)
  | some .window =>
    let p := (o - 0x1000000) / 0x40000
    if o % 0x40000 = 0x3FF00 then ((s.core p).shadow.ctl, s)
    else if o % 0x40000 + 8 ≤ imageSize + 32 then s.ctxRead p (o % 0x40000) else (0, s)
  | some .debug => (s.dbgWindow ((o - 0x10000000) / 0x40000) (o % 0x40000), s)
  | some .colophon => s.coloRead (o - 0xC0000000)
  | none => (0, s)

/-- An 8-byte write of the MMIO range performs. -/
def State.mmioWrite (s : State) (host : Bool) (va : Nat) (v : Word) : State :=
  let o := va - 0xFFFF00000000
  match mmioBlock va with
  | some .launch => s.launchWrite host (BitVec.ofNat 4 ((o - 0x10000) / 0x1000)) (o % 0x1000) v
  | some .prq => s.mapCore ((o - 0x20000) / 8) (·.prqWrite v)
  | some .sysTrace => s.sinkWrite 16 (o % 0x1000) v
  | some .dbgctl => s.dbgWrite ((o - 0x40000) / 8) v
  | some .lease => s.leaseWrite ((o - 0x50000) / 32) (o % 32) v
  | some .device => s.deviceWrite (o % 0x1000) v
  | some .mailbox => s.mailWrite (o % 0x1000) v
  | some .profile => s.mapCore ((o - 0x80000) / 0x1000) fun c => { c with prof := c.prof.write (o % 0x1000) v }
  | some .window =>
    let p := (o - 0x1000000) / 0x40000
    if o % 0x40000 = 0x3FF00 then s.ctxctlWrite p v else s.ctxWrite p (o % 0x40000) v
  | some .debug => s.dbgWindowWrite ((o - 0x10000000) / 0x40000) (o % 0x40000) v
  | some .colophon => s.coloWrite (o - 0xC0000000) v
  | none => s

/-- Does an access of the host at BAR0 reach a register (R337, R367): an aligned one of 8 bytes, to a block that it may reach? -/
def hostReaches (m : HostAddr) : Bool :=
  match mmioBlock m.addr.toNat with
  | some .colophon | none => false
  | some _ => m.addr.toNat % 8 == 0 && m.size == 8

/-- Completion with Unsupported Request (R337), an answer without a cause of a trap: the code 0xFF stands for it. -/
def unsupported : Reply := ⟨0xFF, false, []⟩

/-- R8, R337, R367: REGISTER_WRITE, an aligned 8-byte write by the host; any other completes with Unsupported Request and has
no effect. The message carries TIME (R319). -/
def execRegisterWrite (m : HostAddr) (v : Word) (s : State) : Out :=
  let s := s.receive m.sent
  if hostReaches m then .next (s.mmioWrite true m.addr.toNat v) else .next { s with replies := s.replies ++ [unsupported] }

/-- An aligned 8-byte read of a register by the host (R337, R362), with what the read changes; any other completes with Unsupported
Request. -/
def State.hostRead (s : State) (m : HostAddr) : State :=
  let s := s.receive m.sent
  if hostReaches m then
    let r := s.mmioRead true m.addr.toNat
    { r.2 with replies := r.2.replies ++ [⟨0, false, leBytes 8 r.1.toNat⟩] }
  else { s with replies := s.replies ++ [unsupported] }

/-- R362: MAILBOX_WRITE by the host; one that is not aligned, or not in the mailbox, completes with Unsupported Request (R337). -/
def execMailboxWrite (off : Nat) (v : Word) (s : State) : Out :=
  let s := s.hear
  .next (if off % 8 ≠ 0 ∨ 0x200 < off + 8 then { s with replies := s.replies ++ [unsupported] } else s.mailWrite off v)

/-- R308: PRQ_REQ. -/
def execPrqReq (core : Nat) (v : Word) (s : State) : Out := onCore core (fun s => s.mapCore core (·.prqWrite v)) s
/-- R339: CQ_ENABLE. -/
def execCqEnable (part : BitVec 4) (s : State) : Out := .next (s.cqEnable part)
/-- R338: CQTAIL_WRITE by the host. -/
def execCqtailWrite (part : BitVec 4) (v : Word) (s : State) : Out := .next (s.hear.cqtailWrite true part v)
/-- R335: PCTL_CLR. -/
def execPctlClr (core : Nat) (s : State) : Out := onCore core (fun s => s.mapCore core fun c => { c with prof := c.prof.clear }) s

end Sys2Proof.Machine
end

