-- ==== Sys2Proof/Machine/Special.lean ====
section
/-!
DEFINITION. Special: the reference algorithms of `vrcp`, `vrsq`, `vexp2` and `vlog2` (R108 to R112) on FP32 codes.
-/

namespace Sys2Proof.Machine

/-- RCPT (R108): RNE32(64 / (64 + j + 0.5)). -/
def tabRcp : List Nat :=
  [0x3F7E03F8, 0x3F7A232D, 0x3F76603E, 0x3F72B9D6, 0x3F6F2EB7, 0x3F6BBDB3, 0x3F6865AC, 0x3F652598,
    0x3F61FC78, 0x3F5EE95C, 0x3F5BEB62, 0x3F5901B2, 0x3F562B81, 0x3F53680D, 0x3F50B6A0, 0x3F4E168A] ++
  [0x3F4B8728, 0x3F4907DA, 0x3F46980C, 0x3F443730, 0x3F41E4BC, 0x3F3FA030, 0x3F3D6910, 0x3F3B3EE7,
    0x3F392144, 0x3F370FBB, 0x3F3509E7, 0x3F330F63, 0x3F311FD4, 0x3F2F3ADE, 0x3F2D602B, 0x3F2B8F6A] ++
  [0x3F29C84A, 0x3F280A81, 0x3F2655C4, 0x3F24A9CF, 0x3F23065E, 0x3F216B31, 0x3F1FD80A, 0x3F1E4CAD,
    0x3F1CC8E1, 0x3F1B4C70, 0x3F19D723, 0x3F1868C8, 0x3F17012E, 0x3F15A025, 0x3F144581, 0x3F12F114] ++
  [0x3F11A2B4, 0x3F105A38, 0x3F0F177A, 0x3F0DDA52, 0x3F0CA29C, 0x3F0B7034, 0x3F0A42F8, 0x3F091AC7,
    0x3F07F781, 0x3F06D905, 0x3F05BF37, 0x3F04A9FA, 0x3F039930, 0x3F028CC0, 0x3F01848E, 0x3F008081]

/-- LGT (R108): RNE32(−log2(RCPT[j])). -/
def tabLg : List Nat :=
  [0x3C37F28B, 0x3D08E68D, 0x3D626FCC, 0x3D9D5182, 0x3DC8C50D, 0x3DF3975C, 0x3E0EE690, 0x3E23B551,
    0x3E383A17, 0x3E4C76EA, 0x3E606DB6, 0x3E74205F, 0x3E83C856, 0x3E8D602E, 0x3E96D887, 0x3EA03234] ++
  [0x3EA96DEF, 0x3EB28C80, 0x3EBB8E97, 0x3EC474E2, 0x3ECD4011, 0x3ED5F0C3, 0x3EDE8798, 0x3EE70525,
    0x3EEF69FF, 0x3EF7B6B5, 0x3EFFEBCB, 0x3F0404E8, 0x3F08089D, 0x3F0C0146, 0x3F0FEF1F, 0x3F13D260] ++
  [0x3F17AB44, 0x3F1B79FF, 0x3F1F3ECA, 0x3F22F9D5, 0x3F26AB53, 0x3F2A5375, 0x3F2DF268, 0x3F31885D,
    0x3F35157E, 0x3F3899F4, 0x3F3C15EE, 0x3F3F8991, 0x3F42F506, 0x3F465873, 0x3F49B3FA, 0x3F4D07C5] ++
  [0x3F5053F6, 0x3F5398AF, 0x3F56D60F, 0x3F5A0C3A, 0x3F5D3B4E, 0x3F60636B, 0x3F6384AF, 0x3F669F36,
    0x3F69B31C, 0x3F6CC084, 0x3F6FC782, 0x3F72C831, 0x3F75C2B1, 0x3F78B713, 0x3F7BA577, 0x3F7E8DF1]

/-- RSQT (R110): RNE32(1 / √((1 + (j + 0.5)/32) × 2^h)), index 32h + j. -/
def tabRsq : List Nat :=
  [0x3F7E05EC, 0x3F7A33F9, 0x3F768CDC, 0x3F730D8A, 0x3F6FB345, 0x3F6C7B90, 0x3F69642A, 0x3F666B02,
    0x3F638E39, 0x3F60CC16, 0x3F5E2305, 0x3F5B9193, 0x3F59166B, 0x3F56B051, 0x3F545E22, 0x3F521ED0] ++
  [0x3F4FF162, 0x3F4DD4ED, 0x3F4BC89B, 0x3F49CBA2, 0x3F47DD45, 0x3F45FCD6, 0x3F4429AF, 0x3F426337,
    0x3F40A8DE, 0x3F3EFA1C, 0x3F3D5671, 0x3F3BBD67, 0x3F3A2E8C, 0x3F38A975, 0x3F372DBF, 0x3F35BB09] ++
  [0x3F339F19, 0x3F30EB96, 0x3F2E565C, 0x3F2BDD46, 0x3F297E62, 0x3F2737F0, 0x3F250855, 0x3F22EE1D,
    0x3F20E7F5, 0x3F1EF4A4, 0x3F1D130E, 0x3F1B422C, 0x3F19810C, 0x3F17CED0, 0x3F162AA9, 0x3F1493D9] ++
  [0x3F1309AF, 0x3F118B87, 0x3F1018C6, 0x3F0EB0E0, 0x3F0D534F, 0x3F0BFF97, 0x3F0AB544, 0x3F0973E8,
    0x3F083B1E, 0x3F070A87, 0x3F05E1C7, 0x3F04C08B, 0x3F03A682, 0x3F029362, 0x3F0186E2, 0x3F0080C1]

/-- EXT (R111): RNE32(2^(i/64)). -/
def tabExp : List Nat :=
  [0x3F800000, 0x3F8164D2, 0x3F82CD87, 0x3F843A29, 0x3F85AAC3, 0x3F871F62, 0x3F88980F, 0x3F8A14D5,
    0x3F8B95C2, 0x3F8D1ADF, 0x3F8EA43A, 0x3F9031DC, 0x3F91C3D3, 0x3F935A2B, 0x3F94F4F0, 0x3F96942D] ++
  [0x3F9837F0, 0x3F99E046, 0x3F9B8D3A, 0x3F9D3EDA, 0x3F9EF532, 0x3FA0B051, 0x3FA27043, 0x3FA43516,
    0x3FA5FED7, 0x3FA7CD94, 0x3FA9A15B, 0x3FAB7A3A, 0x3FAD583F, 0x3FAF3B79, 0x3FB123F6, 0x3FB311C4] ++
  [0x3FB504F3, 0x3FB6FD92, 0x3FB8FBAF, 0x3FBAFF5B, 0x3FBD08A4, 0x3FBF179A, 0x3FC12C4D, 0x3FC346CD,
    0x3FC5672A, 0x3FC78D75, 0x3FC9B9BE, 0x3FCBEC15, 0x3FCE248C, 0x3FD06334, 0x3FD2A81E, 0x3FD4F35B] ++
  [0x3FD744FD, 0x3FD99D16, 0x3FDBFBB8, 0x3FDE60F5, 0x3FE0CCDF, 0x3FE33F89, 0x3FE5B907, 0x3FE8396A,
    0x3FEAC0C7, 0x3FED4F30, 0x3FEFE4BA, 0x3FF28177, 0x3FF5257D, 0x3FF7D0DF, 0x3FFA83B3, 0x3FFD3E0C]

/-- The polynomial constants (R108). -/
def c1 : Nat := 0x3F317218
@[inherit_doc c1] def c2 : Nat := 0x3E75FDF0
@[inherit_doc c1] def c3 : Nat := 0x3D635847
@[inherit_doc c1] def k1 : Nat := 0x3FB8AA3B
@[inherit_doc c1] def k2 : Nat := 0xBF38AA3B
@[inherit_doc c1] def k3 : Nat := 0x3EF6384F

/-- FP32 one. -/
def fpOne : Nat := 0x3F800000

/-- RNE32(a × b + c). -/
def fmaN (a b c : Nat) : Nat := (fp32.fma .rne false a b c).1
/-- RNE32(c − a × b). -/
def fnmaN (a b c : Nat) : Nat := (fp32.fma .rne true a b c).1
/-- RNE32(a × b). -/
def mulN (a b : Nat) : Nat := (fp32.mul .rne a b).1

/-- The exact value of a finite FP32 code. -/
def exact (x : Nat) : Bool × Nat × Int :=
  match fp32.get x with
  | .fin n m e => (n, m, e)
  | _ => (false, 0, 0)

/-- The exact sum a + b × c of finite codes, scaled by 2^s. -/
def exactFma (a b c : Nat) (s : Int) : Bool × Nat × Int :=
  let (na, ma, ea) := exact a
  let (nb, mb, eb) := exact b
  let (nc, mc, ec) := exact c
  let r := exactAdd na ma ea (nb != nc) (mb * mc) (eb + ec)
  (r.1, r.2.1, r.2.2 + s)

/-- M of a positive magnitude as an FP32 code in [1, 2), and E, with |x| = M × 2^E (R108). -/
def mant (m : Nat) (e : Int) : Nat × Int :=
  let t := topBit m e
  (0x3F800000 + (m * 2 ^ (23 - m.log2)) % 2 ^ 23, t)

/-- Rounds an exact nonzero result with its flags. -/
def finish32 (neg : Bool) (r : Bool × Nat × Int) : Fres := fp32.round .rne (neg != r.1) r.2.1 r.2.2

/-- A NaN operand by R86. -/
def nan32 (x : Nat) : Fres := (fp32.nanOf [x]).getD (x, 0)

/-- R109. -/
def rcp32 (x : Nat) : Fres :=
  match fp32.get x with
  | .nan _ _ => nan32 x
  | .inf neg => (fp32.zero neg, 0)
  | .fin neg m e =>
    if m = 0 then (fp32.inf neg, flDZ)
    else
      let (mc, ex) := mant m e
      if mc = fpOne then fp32.round .rne neg 1 (-ex)
      else
        let y0 := tabRcp.getD (mc % 2 ^ 23 / 2 ^ 17) 0
        let y1 := fmaN y0 (fnmaN mc y0 fpOne) y0
        let y2 := fmaN y1 (fnmaN mc y1 fpOne) y1
        finish32 neg (exactFma y2 y2 (fnmaN mc y2 fpOne) (-ex))

/-- R110. -/
def rsq32 (x : Nat) : Fres :=
  match fp32.get x with
  | .nan _ _ => nan32 x
  | .inf neg => if neg then (fp32.nan, flNV) else (0, 0)
  | .fin neg m e =>
    if m = 0 then (fp32.inf neg, flDZ)
    else if neg then (fp32.nan, flNV)
    else
      let (mc, ex) := mant m e
      let h := (ex % 2).toNat
      let m2 := mc + h * 2 ^ 23
      let e2 := (ex - h) / 2
      if m2 = fpOne then fp32.round .rne false 1 (-e2)
      else
        let half := 0x3F000000
        let step := fun y => let t := mulN m2 y; fmaN (mulN half y) (fnmaN t y fpOne) y
        let y := step (step (tabRsq.getD (32 * h + mc % 2 ^ 23 / 2 ^ 18) 0))
        let t := mulN m2 y
        let er := fnmaN t y fpOne
        let (_, my, ey) := exact y
        let (ne, me, ee) := exact er
        let r := exactAdd false my ey ne (my * me) (ey + ee - 1)
        finish32 false (r.1, r.2.1, r.2.2 - e2)

/-- floor(m × 2^e) with its sign, and the exact fraction left: (n, f, e') with value n + f × 2^e'. -/
def floorDy (neg : Bool) (m : Nat) (e : Int) : Int × Nat × Int :=
  let v : Int := if neg then -(m : Int) else m
  if 0 ≤ e then (v * 2 ^ e.toNat, 0, 0)
  else
    let d : Int := 2 ^ (-e).toNat
    (v.fdiv d, (v.fmod d).toNat, e)

/-- R111. -/
def exp32 (x : Nat) : Fres :=
  match fp32.get x with
  | .nan _ _ => nan32 x
  | .inf neg => (if neg then 0 else fp32.inf false, 0)
  | .fin neg m e =>
    if !neg ∧ fp32.cmp x 0x43000000 ≠ .lt then (fp32.inf false, flOF ||| flNX)
    else if neg ∧ fp32.cmp x 0xC3160000 = .lt then (0, flUF ||| flNX)
    else
      let (n, f, ef) := floorDy neg m e
      let k := (-ef).toNat
      let i := 64 * f / 2 ^ k
      let r := exactAdd false f ef true i (-6)
      let d := (fp32.round .rne r.1 r.2.1 r.2.2).1
      let p := fmaN d c3 c2
      let p := fmaN d p c1
      let p := mulN d p
      let t := tabExp.getD i 0
      finish32 false (exactFma t t p n)

/-- R112. -/
def log32 (x : Nat) : Fres :=
  match fp32.get x with
  | .nan _ _ => nan32 x
  | .inf neg => if neg then (fp32.nan, flNV) else (fp32.inf false, 0)
  | .fin neg m e =>
    if m = 0 then (fp32.inf true, flDZ)
    else if neg then (fp32.nan, flNV)
    else
      let (mc, ex) := mant m e
      if mc = fpOne then (fp32.round .rne (decide (ex < 0)) ex.natAbs 0)
      else
        let j := mc % 2 ^ 23 / 2 ^ 17
        let u := fmaN mc (tabRcp.getD j 0) 0xBF800000
        let p := fmaN u k3 k2
        let p := fmaN u p k1
        let a := exactFma (tabLg.getD j 0) u p 0
        let r := exactAdd (decide (ex < 0)) ex.natAbs 0 a.1 a.2.1 a.2.2
        finish32 false r

end Sys2Proof.Machine
end

