-- ==== Sys2Proof/Machine/Lanes.lean ====
section
/-!
DEFINITION. Lanes: what each vector opcode computes, element by element and across lanes (R118 to R132), from the register
values that the VU reads at issue.
-/

namespace Sys2Proof.Machine

/-- An element computed, with its flags. -/
abbrev Lane := Elem × Fl

/-- A result in ET's representation. -/
def lane (t : Et) (r : Fres) : Lane := (etRep t r.1, r.2)

/-- R118: one element of the elementwise floating-point opcodes, operands a, b, c as the table orders them. -/
def laneFp (op : VOp) (t : Et) (md : Round) (a b c : Elem) : Lane :=
  let f := etFmt t
  let x := etBits t a
  let y := etBits t b
  let z := etBits t c
  lane t (match op with
    | .vadd | .vadds => f.add md x y
    | .vsub => f.sub md x y
    | .vmul | .vmuls => f.mul md x y
    | .vfma | .vfmas => f.fma md false x y z
    | .vfms => f.fma md true x y z
    | .vmin => f.minmax false x y
    | .vmax => f.minmax true x y
    | .vabs => (f.abs x, 0)
    | _ => (f.neg x, 0))

/-- R119: the special functions. -/
def laneSpecial (op : VOp) (a : Elem) : Lane :=
  lane 0 (match op with
    | .vrcp => rcp32 a.toNat
    | .vrsq => rsq32 a.toNat
    | .vexp2 => exp32 a.toNat
    | _ => log32 a.toNat)

/-- R120: the integer opcodes on the low w bits of their operands. -/
def laneInt (op : VOp) (t : Et) (a b : Elem) : Lane :=
  let w := etWidth t
  let x := etBits t a
  let y := etBits t b
  let n := b.toNat % 32
  let r : Nat := match op with
    | .viadd | .viadds => x + y
    | .visub => x + 2 ^ w - y
    | .vimul => x * y
    | .vand => x &&& y
    | .vor => x ||| y
    | .vxor => x ^^^ y
    | .vshl => if w ≤ n then 0 else x <<< n
    | .vshr => if w ≤ n then 0 else x >>> n
    | .vsar => ((BitVec.ofNat w x).sshiftRight (min n w)).toNat
    | .vimin => if etVal t a < etVal t b then x else y
    | _ => if etVal t a < etVal t b then y else x
  (etRep t r, 0)

/-- R121: a condition on two elements, with its flags. -/
def laneCmp (t : Et) (cond : Nat) (a b : Elem) : Bool × Fl :=
  if etInt t then
    let x := etVal t a
    let y := etVal t b
    let both := etBits t a &&& etBits t b
    (match cond with
      | 0 => x == y | 1 => x != y | 2 => decide (x < y) | 3 => decide (y ≤ x)
      | 4 => decide (x ≤ y) | 5 => decide (y < x) | 6 => both != 0 | _ => both == 0, 0)
  else
    let f := etFmt t
    let x := etBits t a
    let y := etBits t b
    if f.isNan x || f.isNan y then
      (cond == 1 || cond == 6,
        if f.isSig x || f.isSig y || (decide (2 ≤ cond) && decide (cond ≤ 5)) then flNV else 0)
    else
      let o := f.cmp x y
      (match cond with
        | 0 => o == .eq | 1 => o != .eq | 2 => o == .lt | 3 => o != .lt
        | 4 => o != .gt | 5 => o == .gt | 6 => false | _ => true, 0)

/-- R123: the index that AXIS selects, written in ET. -/
def laneIota (t : Et) (axis r c : Nat) : Elem :=
  let i := if axis = 0 then c else if axis = 1 then r else 64 * r + c
  if t = 0 then etRep 0 (fp32.round .rne false i 0).1 else BitVec.ofNat 32 i

/-- The value of a code of any float type (R83, R90, R92). -/
def valueOf (t : Et) (x : Nat) : Fv :=
  if t = 9 then e4m3Get x else if t = 10 then e5m2.get x else if t = 11 then lg8Get x else (etFmt t).get x

/-- The FP32 code of an eight-bit code (R92, R93), with the flag of a signalling E5M2 NaN. -/
def wide8 (t : Et) (x : Nat) : Fres :=
  match valueOf t x with
  | .nan neg sig => if t = 10 then (e5m2.convert fp32 .rne x) else (fp32.inf neg ||| 2 ^ 22, if sig then flNV else 0)
  | .inf neg => (fp32.inf neg, 0)
  | .fin neg m e => fp32.round .rne neg m e

/-- A code of an IEEE type to a destination type (R88, R93, R103). -/
def fromIeee (f : Fmt) (dst : Et) (md : Round) (x : Nat) : Fres :=
  let v := f.get x
  if dst = 9 then toE4m3 md v else if dst = 10 then toE5m2 md v
  else if dst = 11 then toLg8 (lgMode md v.neg) v else f.convert (etFmt dst) md x

/-- R129: `vcvt` of one element. -/
def laneCvt (dst src : Et) (md : Round) (a : Elem) : Lane :=
  let x := etBits src a
  lane dst (
    if src = dst then
      (if src ≤ 2 then (if (etFmt src).isSig x then ((etFmt src).quiet x, flNV) else (x, 0)) else (x, 0))
    else if src ≤ 2 then fromIeee (etFmt src) dst md x
    else
      let w := wide8 src x
      let r := if dst = 0 then (w.1, 0) else fromIeee fp32 dst md w.1
      (r.1, r.2 ||| w.2))

/-- R130: `vfix`. -/
def laneFix (dst src : Et) (md : Round) (a : Elem) : Lane :=
  let r := toInt md (etSigned dst) (etWidth dst) ((etFmt src).get (etBits src a))
  (etRep dst (r.1 % 2 ^ 32).toNat, r.2)

/-- R130: `vflt`. -/
def laneFlt (dst src : Et) (md : Round) (a : Elem) : Lane := lane dst (ofInt (etFmt dst) md (etVal src a))

/-- R131: narrow(). -/
def narrow (dst src : Et) (md : Round) (a : Elem) : Fres :=
  if etInt dst then ((clampTo (etSigned dst) (etWidth dst) (etVal src a) % 2 ^ etWidth dst).toNat, 0)
  else fp32.convert (etFmt dst) md (etBits src a)

/-- R131: `vpack`. -/
def lanePack (dst src : Et) (md : Round) (a b : Elem) : Lane :=
  let lo := narrow dst src md a
  let hi := narrow dst src md b
  (BitVec.ofNat 32 (hi.1 * 2 ^ etWidth dst + lo.1), lo.2 ||| hi.2)

/-- R132: `vunpk`. -/
def laneUnpk (dst src : Et) (cond : Nat) (a : Elem) : Lane :=
  let h := etWidth src
  let x := if cond = 0 then a.toNat % 2 ^ h else a.toNat / 2 ^ h % 2 ^ h
  if etInt src then (etRep dst (etVal src (BitVec.ofNat 32 x) % 2 ^ 32).toNat, 0)
  else lane dst ((etFmt src).convert fp32 .rne x)

/-- R107, R128: one combine of a reduction. -/
def combineRed (t : Et) (cond : Nat) (md : Round) (a b : Lane) : Lane :=
  let r : Lane :=
    if cond = 3 then (a.1 &&& b.1, 0)
    else if cond = 4 then (a.1 ||| b.1, 0)
    else if cond = 5 then (a.1 ^^^ b.1, 0)
    else if etInt t then laneInt (if cond = 0 then .viadd else if cond = 1 then .vimin else .vimax) t a.1 b.1
    else laneFp (if cond = 0 then .vadd else if cond = 1 then .vmin else .vmax) t md a.1 b.1 0
  (r.1, a.2 ||| b.2 ||| r.2)

/-- One level of the tree: neighbours combined, the lower index on the left. -/
def pairUp (f : Lane → Lane → Lane) : List Lane → List Lane
  | a :: b :: t => f a b :: pairUp f t
  | l => l

/-- The fixed pairwise tree of R107 with `n` levels. -/
def tree (f : Lane → Lane → Lane) : Nat → List Lane → Lane
  | 0, l => l.headD (0, 0)
  | n + 1, l => tree f n (pairUp f l)

/-- R124: the mask operations. -/
def kopBits (cond : Nat) (a b : BitVec 64) : BitVec 64 :=
  match cond with
  | 0 => a &&& b | 1 => a ||| b | 2 => a ^^^ b | 3 => a &&& ~~~b | 4 => ~~~a | _ => a

/-- Element (r, c) of a register. -/
def VReg.at (v : VReg) (r c : Nat) : Elem := v[(64 * (r % 16) + c % 64)]'(by omega)
/-- Row `r` of a mask. -/
def MReg.row (k : MReg) (r : Nat) : BitVec 64 := k[r % 16]'(Nat.mod_lt _ (by decide))
/-- Bit (r, c) of a mask. -/
def MReg.at (k : MReg) (r c : Nat) : Bool := (k.row r).getLsbD c

/-- What the VU reads for a word: its vector operands, its mask operands, the old destination, the captured scalar. -/
structure Reads where
  va : VReg
  vb : VReg
  vd : VReg
  ka : MReg
  kb : MReg
  gs : Word
  md : Round

/-- The element (r, c) that an opcode with a vector destination computes (R118 to R132). -/
def laneOf (op : VOp) (m : Mod) (x : Reads) (r c : Nat) : Lane :=
  let a := x.va.at r c
  let b := x.vb.at r c
  let s := scalarOf m.et x.gs
  let n := x.gs.toNat
  match op with
  | .vadd | .vsub | .vmul | .vfma | .vfms | .vmin | .vmax | .vabs | .vneg => laneFp op m.et x.md a b (x.vd.at r c)
  | .vadds | .vmuls | .vfmas => laneFp op m.et x.md a s (x.vd.at r c)
  | .vrcp | .vrsq | .vexp2 | .vlog2 => laneSpecial op a
  | .viadd | .visub | .vimul | .vand | .vor | .vxor | .vshl | .vshr | .vsar | .vimin | .vimax => laneInt op m.et a b
  | .viadds => laneInt op m.et a s
  | .vmov => (a, 0)
  | .vbcs => (x.gs.setWidth 32, 0)
  | .viota => (laneIota m.et m.axis r c, 0)
  | .kpop => (BitVec.ofNat 32 ((List.range 64).filter (x.ka.row r).getLsbD).length, 0)
  | .vrotr => (x.va.at r (c + 64 - n % 64), 0)
  | .vrotc => (x.va.at (r + 16 - n % 16) c, 0)
  | .vbcr => (x.va.at r n, 0)
  | .vbcc => (x.va.at n c, 0)
  | .vshuf => (x.va.at r (b.toNat % 64), 0)
  | .vredr => tree (combineRed m.et m.cond x.md) 6 ((List.range 64).map fun j => (x.va.at r j, 0))
  | .vredc => tree (combineRed m.et m.cond x.md) 4 ((List.range 16).map fun j => (x.va.at j c, 0))
  | .vcvt => laneCvt m.et m.et2 x.md a
  | .vpack => if m.asMov then (a, 0) else lanePack m.et m.et2 x.md a b
  | .vunpk => if m.asMov then (a, 0) else laneUnpk m.et m.et2 m.cond a
  | .vfix => laneFix m.et m.et2 x.md a
  | .vflt => laneFlt m.et m.et2 x.md a
  | _ => (0, 0)

/-- R20, R144: the latency bound of an opcode. -/
def bound : VOp → Nat
  | .vadd | .vsub | .vmul | .vfma | .vfms | .vmin | .vmax | .vabs | .vneg | .vadds | .vmuls | .vfmas => 4
  | .viadd | .visub | .vimul | .vand | .vor | .vxor | .vshl | .vshr | .vsar | .vimin | .vimax | .viadds | .vcmp | .vcmps
  | .vsel | .vmov | .vbcs | .viota | .kop | .kpop => 2
  | .vrotc | .vbcc => 3
  | .vredc => 5
  | .vrotr | .vbcr | .vshuf => 6
  | .vredr => 10
  | .vcvt | .vpack | .vunpk | .vfix | .vflt => 4
  | .vrcp | .vrsq | .vexp2 | .vlog2 => 8
  | .vld | .vldb => 12
  | .vget | .vst | .vstadd | .vzero => 0

end Sys2Proof.Machine
end

