-- ==== Sys2Proof/Machine/Vector.lean ====
section
/-!
DEFINITION. Vector: handing vector words to the VU's queue (R18), their issue in slots with undefined windows (R19 to R22),
and the meanings of the vector words that access no memory (R118 to R132).
-/

namespace Sys2Proof.Machine

/-! ### Issue -/

/-- The VU takes its next entry: the core is in TASK mode and no stop holds the queue (R297, R302, R326). -/
def Core.vuFlows (c : Core) : Bool :=
  (c.phase == .running || c.phase == .halting) && !c.sys && c.trap.isNone && !c.preempt && !c.traceFull .vu

/-- Registers that a word reads: VA, VB, VD, kA, kB, the governing mask (R115, R116). -/
def readsVd (op : VOp) : Bool := op == .vfma || op == .vfms || op == .vfmas

/-- The word uses a governing mask: all but `kop` and `vget` (R124, R126). -/
def usesMask (op : VOp) : Bool := !(op == .kop || op == .vget)

/-- The uncorrectable errors that a word's operands meet (R306); a word that runs as `vmov` reads VA alone (R46). -/
def vectorBad (op : VOp) (o : OpV) (m : Mod) (l : List Bad) : Bool :=
  let u := op.use
  (u.a && !u.ka && l.contains (.v o.a.toNat)) || (u.b && !u.kb && !m.asMov && l.contains (.v o.b.toNat)) ||
  (readsVd op && l.contains (.v o.d.toNat)) ||
  (u.ka && l.contains (.k (o.a.toNat % 8))) || (u.kb && l.contains (.k (o.b.toNat % 8))) ||
  (usesMask op && l.contains (.k m.k.toNat))

/-- A register of free elements. -/
def freeReg (n : Nat) : VReg := Vector.ofFn fun j => Config.freeElem (n + j.val)
/-- A mask of free bits. -/
def freeMask (n : Nat) : MReg :=
  Vector.ofFn fun r => (List.range 64).foldl (fun w c => if Config.freeBit (n + 64 * r.val + c) then w ||| (1 <<< c) else w) 0

/-- A vector register read in slot `n` (R21): its value, or unspecified elements inside its window. -/
def Vu.readV (u : Vu) (i : BitVec 4) (n free : Nat) : VReg :=
  if (u.vwin[i.toNat]'i.isLt).due ≤ n then u.v[i.toNat]'i.isLt else freeReg free

/-- A mask register read in slot `n`; k0 reads all ones. -/
def Vu.readK (u : Vu) (i : BitVec 3) (n free : Nat) : MReg :=
  if i = 0 then Vector.replicate 16 (BitVec.allOnes 64)
  else if (u.kwin[i.toNat]'i.isLt).due ≤ n then u.k[i.toNat]'i.isLt else freeMask free

/-- The words whose bounds run in slot `n`. -/
def Win.running (w : Win) (n : Nat) : List Writer := w.by_.filter fun e => decide (n < e.due)

/-- The elements that hold a value of a word whose bound still runs in slot `n`. -/
def Win.contested (w : Win) (n : Nat) : MReg :=
  Vector.ofFn fun r => (w.running n).foldl (fun m (e : Writer) => m ||| e.wrote[r]) 0

/-- The window after a write in slot `n` with bound `l` whose value the elements `won` hold (R21, R22). -/
def Win.next (w : Win) (n l : Nat) (won : MReg) : Win :=
  let lost := (w.running n).map fun (e : Writer) => ({ e with wrote := Vector.ofFn fun r => e.wrote[r] &&& ~~~won[r] } : Writer)
  ⟨max w.due (n + l), lost ++ [⟨n + l, won⟩]⟩

/-- The elements that a write in slot `n` sets: those it writes, but for each that holds the value of a word with a running bound one of
the two by a free bit (R22). -/
def Win.won (w : Win) (n free : Nat) (wrote : MReg) : MReg :=
  let both := w.contested n
  let mine := freeMask free
  Vector.ofFn fun r => wrote[r] &&& (~~~both[r] ||| mine[r])

/-- Writes a vector register in slot `n` (R22). -/
def Vu.writeV (u : Vu) (i : BitVec 4) (n l free : Nat) (wrote : MReg) (nv : VReg) : Vu :=
  let old := u.v[i.toNat]'i.isLt
  let w := u.vwin[i.toNat]'i.isLt
  let won := w.won n free wrote
  let v : VReg := Vector.ofFn fun j => if won.at (j.val / 64) (j.val % 64) then nv[j] else old[j]
  { u with v := u.v.set i.toNat v i.isLt, vwin := u.vwin.set i.toNat (w.next n l won) i.isLt }

/-- Writes a mask register in slot `n` (R22); a write to k0 is discarded (R11). -/
def Vu.writeK (u : Vu) (i : BitVec 3) (n l free : Nat) (wrote nv : MReg) : Vu :=
  if i = 0 then u
  else
    let old := u.k[i.toNat]'i.isLt
    let w := u.kwin[i.toNat]'i.isLt
    let won := w.won n free wrote
    let k : MReg := Vector.ofFn fun r => (old[r] &&& ~~~won[r]) ||| (nv[r] &&& won[r])
    { u with k := u.k.set i.toNat k i.isLt, kwin := u.kwin.set i.toNat (w.next n l won) i.isLt }

/-- The governing mask (R115). -/
def govern (k : MReg) (kn : Bool) : MReg := Vector.ofFn fun r => if kn then ~~~k[r] else k[r]

/-- Every element of the register. -/
def allMask : MReg := Vector.replicate 16 (BitVec.allOnes 64)

/-- The rows below `n` of a mask. -/
def rowsBelow (k : MReg) (n : Nat) : MReg := Vector.ofFn fun r => if r.val < n then k[r] else 0

/-- Flags of the elements where the mask is set (R115). -/
def flagsOf (m : MReg) (f : Nat → Nat → Fl) : Fl :=
  (List.range 1024).foldl (fun acc j => if m.at (j / 64) (j % 64) then acc ||| f (j / 64) (j % 64) else acc) 0

/-- Free values that one issue draws at most. -/
def vuDraw : Nat := 8192

/-- The load data as a register: one element per piece for `vld`, one per row for `vldb` (R135, R136). -/
def loadReg (op : VOp) (m : Mod) (l : LEntry) : VReg :=
  Vector.ofFn fun j =>
    let i := if op = .vldb then j.val / 64 else j.val
    match l.pieces[i]? with
    | some q => etRep m.et q.data.toNat
    | none => 0

/-- A piece of a store that has not performed and is not masked off. -/
def Piece.waits (q : Piece) (ready : Bool) : Bool := !q.done && (q.en || !ready)

/-- Supplies the data of a vector store (R137 to R139): each element's enable is its mask bit, its bytes the low b bytes. -/
def supply (op : VOp) (m : Mod) (mk : MReg) (va : VReg) (e : SEntry) : SEntry :=
  let b := memBytes op m
  { e with
    ready := true
    pieces := (e.pieces.zipIdx).map fun (q, j) =>
      { q with
        en := mk.at (j / 64) (j % 64)
        data := if op = .vzero then 0 else w64 ((va.at (j / 64) (j % 64)).toNat % 2 ^ (8 * b)) } }

/-- Does a word write every element of its destination (R115, R122, R124, R135)? -/
def writesWhole (op : VOp) (m : Mod) (gov : MReg) : Bool :=
  match op with
  | .kop | .vsel => true
  | .vget | .vst | .vstadd | .vzero => false
  | .vld | .vldb => m.rows == 16 && (m.kz || gov == allMask)
  | _ => m.kz || gov == allMask

/-- The register that a word writes, as a memory with check bits (R306). -/
def destOf (op : VOp) (o : OpV) : Bad :=
  match op with
  | .vcmp | .vcmps | .kop => .k (o.d.toNat % 8)
  | _ => .v o.d.toNat

/-- The effect of issuing one vector word in slot `n` on a context, with its flags and W_MOD (R47, R85). The caller has
checked that it may issue. A store none of whose elements is enabled has nothing left to perform. R85 bounds when a flag appears by the
`vfence`; that it stands from the issue on is the model's choice. R303 gives the destinations of a dropped word: that a dropped `vst`, `vstadd` or
`vzero` stores nothing and a dropped `vget` gives the FIFO nothing is the model's choice too (log 60). -/
def Ctx.issue (x : Ctx) (e : VEntry) (op : VOp) (n free : Nat) : Ctx :=
  let o := e.f
  let m := modOf op e.gt
  let u := x.vu
  let gov := govern (u.readK m.k n free) m.kn
  let rd : Reads := {
    va := u.readV o.a n (free + 1024)
    vb := u.readV o.b n (free + 2048)
    vd := u.readV o.d n (free + 3072)
    ka := u.readK (o.a.setWidth 3) n (free + 4096)
    kb := u.readK (o.b.setWidth 3) n (free + 5120)
    gs := e.gs
    md := u.rm }
  let l := bound op
  let fr := free + 6144
  let x := if m.warn then { x with warn := setBit8 x.warn wMod true } else x
  if e.dropped then
    (match op with
      | .vcmp | .vcmps | .kop => { x with vu := u.writeK (o.d.setWidth 3) n l fr allMask (freeMask (fr + 1024)) }
      | .vget => x
      | .vst | .vstadd | .vzero => { x with sq := x.sq.filter fun q => some q.seq != e.store }
      | .vld | .vldb => { x with vu := u.writeV o.d n l fr allMask (freeReg (fr + 1024)), lq := x.lq.drop 1 }
      | _ => { x with vu := u.writeV o.d n l fr allMask (freeReg (fr + 1024)) })
  else match op with
    | .vcmp | .vcmps =>
      let cmp := fun r c => laneCmp m.et m.cond (rd.va.at r c) (if op = .vcmp then rd.vb.at r c else scalarOf m.et e.gs)
      let nv : MReg := Vector.ofFn fun r =>
        (List.range 64).foldl (fun w c => if gov.at r c && (cmp r.val c).1 then w ||| (1 <<< c) else w) 0
      { x with
        vu := u.writeK (o.d.setWidth 3) n l fr (if m.kz then allMask else gov) nv
        vufl := x.vufl ||| flagsOf gov fun r c => (cmp r c).2 }
    | .kop =>
      { x with vu := u.writeK (o.d.setWidth 3) n l fr allMask (Vector.ofFn fun r => kopBits m.cond rd.ka[r] rd.kb[r]) }
    | .vsel =>
      { x with vu := u.writeV o.d n l fr allMask (Vector.ofFn fun j =>
          if gov.at (j.val / 64) (j.val % 64) then rd.va[j] else rd.vb[j]) }
    | .vget =>
      { x with vu := { u with fifo := u.fifo ++ [rd.va.at (wbits e.gs 11 8) (wbits e.gs 5 0)] } }
    | .vld | .vldb =>
      (match x.lq with
        | [] => x
        | q :: t =>
          let gm := rowsBelow gov m.rows
          let nv := loadReg op m q
          let wr := if m.kz then rowsBelow allMask m.rows else gm
          { x with
            lq := t
            vu := u.writeV o.d n l fr wr (Vector.ofFn fun j => if gm.at (j.val / 64) (j.val % 64) then nv[j] else 0) })
    | .vst | .vstadd | .vzero =>
      let fill := fun (q : SEntry) => if some q.seq = e.store then supply op m gov rd.va q else q
      { x with sq := (x.sq.map fill).filter fun q => some q.seq != e.store || q.pieces.any (·.waits q.ready) }
    | _ =>
      let nv : VReg := Vector.ofFn fun j =>
        if gov.at (j.val / 64) (j.val % 64) then (laneOf op m rd (j.val / 64) (j.val % 64)).1 else 0
      { x with
        vu := u.writeV o.d n l fr (if m.kz then allMask else gov) nv
        vufl := x.vufl ||| flagsOf gov fun r c => (laneOf op m rd r c).2 }

/-- May the entry at the head of the VU queue issue: a load has its data (R19), a `vget` a free FIFO entry (R126)? -/
def Ctx.issuable (x : Ctx) (e : VEntry) : Bool :=
  match e.op with
  | some .vld | some .vldb =>
    (match x.lq with
      | [] => false
      | q :: _ => some q.num == e.load && q.fault.isNone && (q.dropped || q.pieces.all (·.done)))
  | some .vget => decide (x.vu.fifo.length < 16)
  | _ => true

/-- The VU reaches the entry at the head of its queue, `delay` slots later than the earliest (R19): a mode entry sets the
rounding mode (R142), a vector word issues, or traps on an uncorrectable error in its operands (R306). A word that writes every element
of its destination leaves it with fresh check bits. -/
def State.vuIssue (s : State) (p delay : Nat) : State :=
  let c := s.core p
  let x := c.ctx
  match x.vu.queue with
  | [] => s
  | e :: rest =>
    if !c.vuFlows || !x.issuable e then s
    else match e.op with
      | none =>
        let code := wbits e.gs 2 0
        let rm := if code = 1 then Round.rz else if code = 2 then .ru else if code = 3 then .rd else .rne
        let c' := if 4 ≤ code then c.warn wRnd else c
        s.setCore p { c' with ctx := { c'.ctx with vu := { x.vu with queue := rest, rm := rm } } }
      | some op =>
        if !e.dropped && vectorBad op e.f (modOf op e.gt) c.bad then
          (s.internalErr p .vu e.tag).raise p { cause := .memerr, q := 2, tinfo := 2, tag := some e.tag }
        else
          let n := x.vu.slot + 1 + e.f.p.toNat + delay
          let m := modOf op e.gt
          let y := ({ x with vu := { x.vu with queue := rest, slot := n } }).issue e op n s.free
          let whole := e.dropped || writesWhole op m (govern (x.vu.readK m.k n s.free) m.kn)
          let bad := if whole then c.bad.filter (· != destOf op e.f) else c.bad
          { s.setCore p { c with ctx := y, bad := bad } with free := s.free + vuDraw }

/-! ### Hand-over -/

/-- The VU queue holds 32 entries (R18). -/
def vuDepth : Nat := 32

/-- Appends an entry to the VU queue. -/
def Ctx.pushVu (x : Ctx) (e : VEntry) : Ctx :=
  { x with vu := { x.vu with queue := x.vu.queue ++ [{ e with num := x.vu.num }], num := x.vu.num + 1 } }

/-- A vector word handed to the VU with g[GS] and g[GT] as they stand (R18); it waits while the queue is full. -/
def handOver (op : VOp) (o : OpV) (s : State) : Out :=
  queueWord Guard.always [bg o.s, bg o.t] (fun s c =>
    if vuDepth ≤ c.ctx.vu.queue.length then .stall
    else s.okCore { c with ctx := c.ctx.pushVu ⟨0, some op, o, c.rg o.s, c.rg o.t, none, none, false, c.loopTag Guard.always⟩ }) s

/-- R118: `vadd`; its result is `Ctx.issue`'s when the VU issues it. -/
def execVadd (o : OpV) (s : State) : Out := handOver .vadd o s
/-- R118: `vsub`; its result is `Ctx.issue`'s when the VU issues it. -/
def execVsub (o : OpV) (s : State) : Out := handOver .vsub o s
/-- R118: `vmul`; its result is `Ctx.issue`'s when the VU issues it. -/
def execVmul (o : OpV) (s : State) : Out := handOver .vmul o s
/-- R118: `vfma`; its result is `Ctx.issue`'s when the VU issues it. -/
def execVfma (o : OpV) (s : State) : Out := handOver .vfma o s
/-- R118: `vfms`; its result is `Ctx.issue`'s when the VU issues it. -/
def execVfms (o : OpV) (s : State) : Out := handOver .vfms o s
/-- R118: `vmin`; its result is `Ctx.issue`'s when the VU issues it. -/
def execVmin (o : OpV) (s : State) : Out := handOver .vmin o s
/-- R118: `vmax`; its result is `Ctx.issue`'s when the VU issues it. -/
def execVmax (o : OpV) (s : State) : Out := handOver .vmax o s
/-- R118: `vabs`; its result is `Ctx.issue`'s when the VU issues it. -/
def execVabs (o : OpV) (s : State) : Out := handOver .vabs o s
/-- R118: `vneg`; its result is `Ctx.issue`'s when the VU issues it. -/
def execVneg (o : OpV) (s : State) : Out := handOver .vneg o s
/-- R118: `vadds`; its result is `Ctx.issue`'s when the VU issues it. -/
def execVadds (o : OpV) (s : State) : Out := handOver .vadds o s
/-- R118: `vmuls`; its result is `Ctx.issue`'s when the VU issues it. -/
def execVmuls (o : OpV) (s : State) : Out := handOver .vmuls o s
/-- R118: `vfmas`; its result is `Ctx.issue`'s when the VU issues it. -/
def execVfmas (o : OpV) (s : State) : Out := handOver .vfmas o s
/-- R119: `vrcp`; its result is `Ctx.issue`'s when the VU issues it. -/
def execVrcp (o : OpV) (s : State) : Out := handOver .vrcp o s
/-- R119: `vrsq`; its result is `Ctx.issue`'s when the VU issues it. -/
def execVrsq (o : OpV) (s : State) : Out := handOver .vrsq o s
/-- R119: `vexp2`; its result is `Ctx.issue`'s when the VU issues it. -/
def execVexp2 (o : OpV) (s : State) : Out := handOver .vexp2 o s
/-- R119: `vlog2`; its result is `Ctx.issue`'s when the VU issues it. -/
def execVlog2 (o : OpV) (s : State) : Out := handOver .vlog2 o s
/-- R120: `viadd`; its result is `Ctx.issue`'s when the VU issues it. -/
def execViadd (o : OpV) (s : State) : Out := handOver .viadd o s
/-- R120: `visub`; its result is `Ctx.issue`'s when the VU issues it. -/
def execVisub (o : OpV) (s : State) : Out := handOver .visub o s
/-- R120: `vimul`; its result is `Ctx.issue`'s when the VU issues it. -/
def execVimul (o : OpV) (s : State) : Out := handOver .vimul o s
/-- R120: `vand`; its result is `Ctx.issue`'s when the VU issues it. -/
def execVand (o : OpV) (s : State) : Out := handOver .vand o s
/-- R120: `vor`; its result is `Ctx.issue`'s when the VU issues it. -/
def execVor (o : OpV) (s : State) : Out := handOver .vor o s
/-- R120: `vxor`; its result is `Ctx.issue`'s when the VU issues it. -/
def execVxor (o : OpV) (s : State) : Out := handOver .vxor o s
/-- R120: `vshl`; its result is `Ctx.issue`'s when the VU issues it. -/
def execVshl (o : OpV) (s : State) : Out := handOver .vshl o s
/-- R120: `vshr`; its result is `Ctx.issue`'s when the VU issues it. -/
def execVshr (o : OpV) (s : State) : Out := handOver .vshr o s
/-- R120: `vsar`; its result is `Ctx.issue`'s when the VU issues it. -/
def execVsar (o : OpV) (s : State) : Out := handOver .vsar o s
/-- R120: `vimin`; its result is `Ctx.issue`'s when the VU issues it. -/
def execVimin (o : OpV) (s : State) : Out := handOver .vimin o s
/-- R120: `vimax`; its result is `Ctx.issue`'s when the VU issues it. -/
def execVimax (o : OpV) (s : State) : Out := handOver .vimax o s
/-- R120: `viadds`; its result is `Ctx.issue`'s when the VU issues it. -/
def execViadds (o : OpV) (s : State) : Out := handOver .viadds o s
/-- R121: `vcmp`; its result is `Ctx.issue`'s when the VU issues it. -/
def execVcmp (o : OpV) (s : State) : Out := handOver .vcmp o s
/-- R121: `vcmps`; its result is `Ctx.issue`'s when the VU issues it. -/
def execVcmps (o : OpV) (s : State) : Out := handOver .vcmps o s
/-- R122: `vsel`; its result is `Ctx.issue`'s when the VU issues it. -/
def execVsel (o : OpV) (s : State) : Out := handOver .vsel o s
/-- R122: `vmov`; its result is `Ctx.issue`'s when the VU issues it. -/
def execVmov (o : OpV) (s : State) : Out := handOver .vmov o s
/-- R122: `vbcs`; its result is `Ctx.issue`'s when the VU issues it. -/
def execVbcs (o : OpV) (s : State) : Out := handOver .vbcs o s
/-- R123: `viota`; its result is `Ctx.issue`'s when the VU issues it. -/
def execViota (o : OpV) (s : State) : Out := handOver .viota o s
/-- R124: `kop`; its result is `Ctx.issue`'s when the VU issues it. -/
def execKop (o : OpV) (s : State) : Out := handOver .kop o s
/-- R125: `kpop`; its result is `Ctx.issue`'s when the VU issues it. -/
def execKpop (o : OpV) (s : State) : Out := handOver .kpop o s
/-- R126: `vget`; its result is `Ctx.issue`'s when the VU issues it. -/
def execVget (o : OpV) (s : State) : Out := handOver .vget o s
/-- R127: `vrotr`; its result is `Ctx.issue`'s when the VU issues it. -/
def execVrotr (o : OpV) (s : State) : Out := handOver .vrotr o s
/-- R127: `vrotc`; its result is `Ctx.issue`'s when the VU issues it. -/
def execVrotc (o : OpV) (s : State) : Out := handOver .vrotc o s
/-- R127: `vbcr`; its result is `Ctx.issue`'s when the VU issues it. -/
def execVbcr (o : OpV) (s : State) : Out := handOver .vbcr o s
/-- R127: `vbcc`; its result is `Ctx.issue`'s when the VU issues it. -/
def execVbcc (o : OpV) (s : State) : Out := handOver .vbcc o s
/-- R128: `vredr`; its result is `Ctx.issue`'s when the VU issues it. -/
def execVredr (o : OpV) (s : State) : Out := handOver .vredr o s
/-- R128: `vredc`; its result is `Ctx.issue`'s when the VU issues it. -/
def execVredc (o : OpV) (s : State) : Out := handOver .vredc o s
/-- R127: `vshuf`; its result is `Ctx.issue`'s when the VU issues it. -/
def execVshuf (o : OpV) (s : State) : Out := handOver .vshuf o s
/-- R129: `vcvt`; its result is `Ctx.issue`'s when the VU issues it. -/
def execVcvt (o : OpV) (s : State) : Out := handOver .vcvt o s
/-- R131: `vpack`; its result is `Ctx.issue`'s when the VU issues it. -/
def execVpack (o : OpV) (s : State) : Out := handOver .vpack o s
/-- R132: `vunpk`; its result is `Ctx.issue`'s when the VU issues it. -/
def execVunpk (o : OpV) (s : State) : Out := handOver .vunpk o s
/-- R130: `vfix`; its result is `Ctx.issue`'s when the VU issues it. -/
def execVfix (o : OpV) (s : State) : Out := handOver .vfix o s
/-- R130: `vflt`; its result is `Ctx.issue`'s when the VU issues it. -/
def execVflt (o : OpV) (s : State) : Out := handOver .vflt o s

end Sys2Proof.Machine
end

