-- ==== Sys2Proof/Machine/Lsu.lean ====
section
/-!
DEFINITION. Lsu: the access stream (R24 to R27), the order of accesses (R230), scalar loads and stores (R59 to R62), taps (R223),
atomics (R190 to R192), fences (R193), and the performing of queued stores and deposits at their homes (R26, R213, R231).
-/

namespace Sys2Proof.Machine

/-! ### Places and order -/

/-- A place as a space and an offset within it. -/
def Place.span : Place → Nat × Nat
  | .mem k => (0, k)
  | .window _ k => (1, k)
  | .mmio va => (2, va)
  | .peer va => (3, va)
  | .lease e off => (4, e * 2 ^ 31 + off)

/-- The location of an access: locations are physical (R236), also behind an export address of this package (R343). -/
def State.span (s : State) (pl : Place) : Nat × Nat := (s.real pl).span

/-- Two accesses overlap in some byte. -/
def State.overlaps (s : State) (a : Place) (n : Nat) (b : Place) (m : Nat) : Bool :=
  (s.span a).1 == (s.span b).1 && decide ((s.span a).2 < (s.span b).2 + m) && decide ((s.span b).2 < (s.span a).2 + n)

/-- The place lies in the quire range (R230). -/
def Place.quire : Place → Bool
  | .mem k => isSpad k
  | _ => false

/-- The homes that a scope covers for core `p` (R193): 0 core, 1 quire, 2 die, 3 pkg, 4 sys. -/
def State.covers (s : State) (p sc : Nat) (h : Home) : Bool :=
  let c := s.core p
  match sc with
  | 0 => h == .port p
  | 1 => [0, 1, 2, 3].any fun m => (quireMember p c.seat m).map Home.port == some h
  | 2 => h.die == some (dieOf p)
  | 3 => (match h with | .peer k => k == s.pkgid.toNat | _ => true)
  | _ => true

/-- One access about to perform: its place among the core's accesses, class, place and size, and the words under way that it follows. -/
structure Acc where
  seq : Nat
  cls : BitVec 4
  place : Place
  n : Nat
  late : List Late

/-- An access of core `p` that begins as number `seq`. -/
def State.acc (s : State) (p seq : Nat) (cls : BitVec 4) (place : Place) (n : Nat) : Acc :=
  ⟨seq, cls, place, n, (s.core p).late.filter fun l => decide (l.seq ≤ seq)⟩

/-- Situations 1 and 2 of R230, and the colophon's registers, which are accessed in program order (R364). -/
def State.ordered (s : State) (xc yc : BitVec 4) (x y : Place) : Bool :=
  (xc == yc && (s.homeAt x == s.homeAt y || (!x.quire && !y.quire))) ||
  (match x, y with
    | .mmio a, .mmio b => decide (0xFFFFC0000000 ≤ a) && decide (0xFFFFC0000000 ≤ b)
    | _, _ => false)

/-- An access numbered `seq` is made in a handler, or by the colophon. -/
def Core.inHandler (c : Core) (seq : Nat) : Bool := c.sys && decide (c.ctx.tseq ≤ seq)

/-- The store-queue entries that an access of core `p` regards: one made in a handler not the held ones (R302). -/
def State.older (s : State) (p seq : Nat) : List SEntry :=
  let c := s.core p
  let held := if c.inHandler seq then (c.ctx.heldStores s.homeAt).map (·.seq) else []
  c.ctx.sq.filter fun e => decide (e.seq < seq) && !held.contains e.seq

/-- A word under way is an atomic. -/
def amoOf : Instr → Option (BitVec 4 × OpAmo)
  | .amoAdd o => some (0, o) | .amoAnd o => some (1, o) | .amoOr o => some (2, o) | .amoXor o => some (3, o)
  | .amoMin o => some (4, o) | .amoMax o => some (5, o) | .amoSwp o => some (6, o) | .amoCas o => some (7, o)
  | .amoMinn o => some (8, o) | .amoMaxn o => some (9, o)
  | _ => none

/-- A pending atomic of class `cls` stands between: one without destination in `l`, numbered from `seq` on, or a word under way in `late`.
Its fences cover the earlier home (R191). -/
def State.amoCovers (s : State) (p : Nat) (l : List SEntry) (late : List Late) (seq : Nat) (cls : BitVec 4) (h : Home) : Bool :=
  (l.any fun r => match r.scope with
    | some sc => decide (seq ≤ r.seq) && r.cls == cls && s.covers p sc.toNat h
    | none => false) ||
  late.any fun r => (amoOf r.i).isSome && r.cls == cls && s.covers p r.sc h

/-- Fences hold the access `y` back behind an earlier one that is numbered `seq`, in class `cls`, to `pl`: a `fence` that completed while that
was under way to a home outside its scope (R193, situation 3 of R230), or the fences of an atomic (situation 4). -/
def State.fencedBy (s : State) (p seq : Nat) (cls : BitVec 4) (fenced : BitVec 16) (pl : Place) (late : List Late) (y : Acc) : Bool :=
  (fenced.getLsbD y.cls.toNat && s.homeAt pl == s.homeAt y.place) ||
  (cls == y.cls && s.amoCovers p (s.older p y.seq) late seq y.cls (s.homeAt pl))

/-- Vector loads that an access regards: the earlier ones, but none for a handler's (R302). -/
def State.loadsBefore (s : State) (p : Nat) (y : Acc) : List LEntry :=
  let c := s.core p
  if c.inHandler y.seq then [] else c.ctx.lq.filter fun l => decide (l.seq < y.seq) && !l.dropped

/-- Fences hold the access back behind an earlier store, vector load, or word under way. -/
def State.fencesHold (s : State) (p : Nat) (y : Acc) : Bool :=
  let after := fun (n : Nat) => y.late.filter fun l => decide (n < l.seq)
  ((s.older p y.seq).any fun e => e.pieces.any fun q => q.waits e.ready && s.fencedBy p e.seq e.cls e.fenced q.place (after e.seq) y) ||
  ((s.loadsBefore p y).any fun l => l.pieces.any fun q => !q.done && s.fencedBy p l.seq l.cls l.fenced q.place (after l.seq) y) ||
  y.late.zipIdx.any fun (l, i) => s.fencedBy p l.seq l.cls l.fenced l.place (y.late.drop i) y

/-- Earlier accesses hold the access back by their class: stores, vector loads, and words under way; a store that follows a load of its class
waits for its data, wherever it stands (R24, R27, R230). -/
def State.orderHolds (s : State) (p : Nat) (store : Bool) (y : Acc) : Bool :=
  ((s.older p y.seq).any fun e => e.pieces.any fun q => q.waits e.ready && s.ordered e.cls y.cls q.place y.place) ||
  ((s.loadsBefore p y).any fun l => l.pieces.any fun q => !q.done && (s.ordered l.cls y.cls q.place y.place || (store && l.cls == y.cls))) ||
  y.late.any fun l => s.ordered l.cls y.cls l.place y.place || (store && l.cls == y.cls)

/-! ### Forwarding (R27) -/

/-- What the older queued stores of a load's class give it. -/
inductive Fwd
  | none | wait | from (e : SEntry)

/-- Does a store to this place forward its bytes? A filter window's does not (R213), and whether an export entry of another package maps a window
is free. -/
def State.forwards (s : State) (pl : Place) : Bool :=
  match s.real pl with
  | .mem _ | .lease _ _ => true
  | .peer va => !Config.peerWindow (va / 2 ^ 26) s.free
  | _ => false

/-- The youngest older store of the class that overlaps any byte of the load decides, also with bytes that its mask turns off; an
overlapping atomic of the class holds the load back until it has performed (R191). -/
def State.forward (s : State) (p : Nat) (y : Acc) (l : List (Place × Nat)) : Fwd :=
  let hit := fun (pl : Place) (n : Nat) => l.any fun r => s.overlaps pl n r.1 r.2
  let hits := (s.older p y.seq).filter fun e => e.cls == y.cls && e.pieces.any fun q => hit q.place q.n
  let late := y.late.any fun r => (amoOf r.i).isSome && r.cls == y.cls && hit r.place r.n
  match hits.getLast? with
  | Option.none => if late then .wait else .none
  | some e =>
    let byte := fun (sp k : Nat) => e.pieces.any fun q =>
      (s.span q.place).1 == sp && decide ((s.span q.place).2 ≤ k) && decide (k < (s.span q.place).2 + q.n)
    let covers := l.all fun y => (run (s.span y.1).2 y.2).all fun k => byte (s.span y.1).1 k
    let atomics := hits.any fun r => match r.kind with | .red _ _ => true | _ => false
    if atomics || late then .wait
    else if e.ready && e.kind == .plain && e.pieces.all (s.forwards ·.place) && covers && e.pieces.all (·.en) then .from e else .wait

/-- Where a load takes its bytes, which stand at the places `l`: it waits for what stands before it, an older store forwards them, or its home
has them (R24 to R27, R191, R230). -/
def State.source (s : State) (p : Nat) (y : Acc) (l : List (Place × Nat)) : Fwd :=
  if s.fencesHold p y then .wait
  else match s.forward p y l with
    | .none => if s.orderHolds p false y then .wait else .none
    | f => f

/-- The byte that a store puts at a location; the last piece that covers it remains. -/
def State.byteOf (s : State) (e : SEntry) (sp k : Nat) : Byte :=
  let hit := fun (q : Piece) =>
    (s.span q.place).1 == sp && decide ((s.span q.place).2 ≤ k) && decide (k < (s.span q.place).2 + q.n)
  match (e.pieces.filter hit).getLast? with
  | some q => BitVec.ofNat 8 (q.data.toNat / 256 ^ (k - (s.span q.place).2))
  | none => 0

/-- The value that a store forwards to a load of `n` bytes. -/
def State.forwarded (s : State) (e : SEntry) (pl : Place) (n : Nat) : Nat :=
  leNat ((run (s.span pl).2 n).map (s.byteOf e (s.span pl).1))

/-! ### Reading and writing at a home -/

/-- What a read at its home gives. -/
inductive Got
  | data (x : Nat) (s : State)
  | fail (c : Cause) (tinfo : Word) (s : State)
  | wait

/-- TINFO of a refusal (R344, R348). -/
def refusalInfo (pl : Place) (c : Cause) : Word :=
  match pl, c with
  | .lease _ _, .lease => 2
  | _, _ => 1

/-- The bytes of a remote answer, or its refusal. -/
def gotOf (pl : Place) (n : Nat) (r : Served) : Got :=
  match r with
  | .wait => .wait
  | .refused c s' => .fail c (refusalInfo pl c) s'
  | .done l s' => .data (leNat (l.take n)) s'

/-- The bytes that answer a read of `n` bytes: a tap fills a doubleword (R208). -/
def answerSize (n : Nat) (req : PeerReq) : Nat := match req with | .tap _ => 8 | _ => n

/-- The die of the unit that holds a register of the MMIO map: a core's registers are the core's. That every other unit stands on CD0 is
the model's choice (log 58). -/
def mmioDie (va : Nat) : Nat :=
  let o := va - 0xFFFF00000000
  match mmioBlock va with
  | some .prq => dieOf ((o - 0x20000) / 8)
  | some .dbgctl => dieOf ((o - 0x40000) / 8)
  | some .profile => dieOf ((o - 0x80000) / 0x1000)
  | some .window => dieOf ((o - 0x1000000) / 0x40000)
  | some .debug => dieOf ((o - 0x10000000) / 0x40000)
  | _ => 0

/-- A read of `n` bytes by core `p` performs at its home (R60, R211, R222, R344); `f` makes the value of a cell, `tag` is the loop fields
of its word. The request and its response carry TIME, also where the home reports an error (R319). A unit that was lent out since the
checks refuses the access (R348). -/
def State.readHome (s : State) (p : Nat) (pl : Place) (n : Nat) (f : Cell → Word) (req : PeerReq) (tag : LoopTag) : Got :=
  let part := (s.core p).seat.part
  match pl with
  | .mem k =>
    let ks := run k n
    if s.lentOut k then .fail .xperm 0 s
    else if s.mustWait ks then .wait
    else match s.firstMeet .uncorr ks with
      | some b => .fail .memerr 0 (s.atHome (dieOf p) (homeOf k) (·.reportKey 0x39 b tag))
      | none => .data (s.peek k n) (s.atHome (dieOf p) (homeOf k) (·.reportCorr ks tag))
  | .window _ k =>
    (match s.readCell part k with
      | .wait => .wait
      | .noRegion => .fail .filter 3 (s.visit p (windowHome k))
      | .lent => .fail .xperm 0 (s.visit p (windowHome k))
      | .bad b => .fail .memerr 0 (s.atHome (dieOf p) (windowHome k) (·.reportKey 0x39 b tag))
      | .cell c b => .data (f c).toNat (s.atHome (dieOf p) (windowHome k) (·.reportCorr (run b 32) tag)))
  | .mmio va =>
    let r := (s.cross (dieOf p) (mmioDie va)).mmioRead false va
    .data r.1.toNat (r.2.cross (mmioDie va) (dieOf p))
  | _ => gotOf pl (answerSize n req) (s.remote p pl req)

/-- An atomic of core `p` performs at its home: the old doubleword (R190, R192). -/
def State.atomicHome (s : State) (p : Nat) (pl : Place) (op : BitVec 4) (b x : Word) (tag : LoopTag) : Got :=
  let part := (s.core p).seat.part
  match pl with
  | .mem k =>
    let ks := run k 8
    let at_ := s.atHome (dieOf p) (homeOf k)
    if s.lentOut k then .fail .xperm 0 s
    else if s.mustWait ks || s.writeWaits ks then .wait
    else match s.firstMeet .uncorr ks with
      | some j => .fail .memerr 0 (at_ (·.reportKey 0x39 j tag))
      | none => match s.writeErr ks with
        | some j => .fail .memerr 0 (at_ (·.reportKey 0x39 j tag))
        | none =>
          let old := s.peek k 8
          .data old (at_ fun s => (s.reportCorr ks tag).store part k (leBytes 8 (atomicOp op (w64 old) b x).toNat) tag)
  | _ => gotOf pl 8 (s.remote p pl (.atomic op b x))

/-! ### Queued stores perform -/

/-- May piece `j` of an entry perform, together with the pieces `js`: its data is there, and nothing else that is ordered before it waits (R24,
R27, R191, R230)? -/
def State.storeMay (s : State) (p : Nat) (e : SEntry) (j : Nat) (q : Piece) (js : List Nat) : Bool :=
  let y := s.acc p e.seq e.cls q.place q.n
  let own := e.kind == .plain && (e.pieces.zipIdx.take j).any fun (o, i) =>
    o.waits e.ready && !js.contains i && s.overlaps o.place o.n q.place q.n
  let lead := match e.scope with
    | some sc => (s.older p e.seq).any fun o => o.cls == e.cls && o.pieces.any fun r => r.waits o.ready && s.covers p sc.toNat (s.homeAt r.place)
    | none => false
  e.ready && !own && !lead && !s.fencesHold p y && !s.orderHolds p true y

/-- May piece `j` of an entry perform by itself? -/
def State.storeFree (s : State) (p : Nat) (e : SEntry) (j : Nat) (q : Piece) : Bool := s.storeMay p e j q []

/-- The number of the protected unit that holds a memory key: its stripe, or its SECDED word. -/
def unitOf (k : Nat) : Nat := if isHbm k then 2 * stripeIdOf k else 2 * (k / 8) + 1

/-- Must a write of these keys read, to correct or to rebuild (R189, R365)? -/
def State.sick (s : State) (ks : List Nat) : Bool :=
  (s.writeErr ks).isSome || match ks with
    | [] => false
    | k0 :: _ => if isHbm k0 then !(s.hbm.rebuilt ks).isEmpty else ks.any fun k => s.memSoft.contains (k / 8)

/-- The enabled waiting pieces of an entry that write one protected unit: they perform as one write where together they cover
what an error makes unwritable in part (R189, R365). One in a unit that is lent out is refused on its own (R348). -/
def State.group (s : State) (e : SEntry) (k : Nat) : List (Nat × Piece) :=
  ((e.pieces.zipIdx).map fun (q, j) => (j, q)).filter fun (_, q) => q.waits e.ready && match q.place with
    | .mem a => unitOf a == unitOf k && !s.lentOut a
    | _ => false

/-- The bytes that pieces write. -/
def pieceBytes (l : List (Nat × Piece)) : List (Nat × Byte) :=
  l.flatMap fun (_, q) => match q.place with
    | .mem a => (run a q.n).zip (leBytes q.n q.data.toNat)
    | _ => []

/-- What the performing of one piece does: nothing yet, or the pieces that are done and the state. -/
inductive Perf
  | wait | done (js : List Nat) (s : State)

/-- The write of bytes of memory by piece `j` of a plain store. A unit with an error is written once for all the pieces that reach it, if
together they can be. A unit that was lent out since the checks refuses the write (R348), which posts an entry of KIND 3 (log 59). -/
def State.writeBytes (s : State) (p : Nat) (e : SEntry) (j : Nat) (q : Piece) (k : Nat) : Perf :=
  let part := (s.core p).seat.part
  let ks := run k q.n
  let at_ := s.atHome (dieOf p) (homeOf k)
  let alone := at_ (·.store part k (leBytes q.n q.data.toNat) e.tag)
  if s.lentOut k then .done [j] (s.refusedStore part q.va .xperm)
  else if s.writeWaits ks then .wait
  else if !s.sick ks then .done [j] alone
  else
    let g := s.group e k
    let all := pieceBytes g
    match s.writeErr (all.map (·.1)), s.writeErr ks with
    | none, _ =>
      if g.all (fun (i, r) => s.storeMay p e i r (g.map (·.1))) && !s.writeWaits (all.map (·.1)) then
        .done (g.map (·.1)) (at_ (·.storeMasked part all e.tag))
      else .wait
    | some _, none => .done [j] alone
    | some _, some b => .done [j] (at_ (·.reportKey 0x39 b e.tag))

/-- The write of one piece at its home (R26, R61, R138, R190, R213, R344). -/
def State.writePiece (s : State) (p : Nat) (e : SEntry) (j : Nat) (q : Piece) : Perf :=
  let part := (s.core p).seat.part
  let sent := fun (r : Served) => (match r with
    | .wait => Perf.wait
    | .refused c s' => .done [j] (s'.refusedStore part q.va c)
    | .done _ s' => .done [j] s')
  match e.kind, q.place with
  | .plain, .mem k => s.writeBytes p e j q k
  | .plain, .window va k =>
    if s.cellLent part k then .done [j] (s.refusedStore part q.va .xperm)
    else if s.windowWaits part k then .wait
    else .done [j] (s.atHome (dieOf p) (windowHome k) (·.deposit p part k (va / 4) (q.data.setWidth 32) e.tag))
  | .plain, .mmio va =>
    if p = Config.colophon ∧ s.colo.busy (va - 0xFFFFC0000000) then .wait
    else .done [j] (((s.cross (dieOf p) (mmioDie va)).mmioWrite false va q.data).cross (mmioDie va) (dieOf p))
  | .plain, pl => sent (s.remote p pl (.write (leBytes q.n q.data.toNat)))
  | .add fp, .mem k =>
    let ks := run k 4
    let at_ := s.atHome (dieOf p) (homeOf k)
    if s.lentOut k then .done [j] (s.refusedStore part q.va .xperm)
    else if s.mustWait ks || s.writeWaits ks then .wait
    else (match s.firstMeet .uncorr ks, s.writeErr ks with
      | some b, _ | none, some b => .done [j] (at_ (·.reportKey 0x39 b e.tag))
      | none, none =>
        let new := vaddOp fp (BitVec.ofNat 32 (s.peek k 4)) (q.data.setWidth 32)
        .done [j] (at_ fun s => (s.reportCorr ks e.tag).store part k (leBytes 4 new.toNat) e.tag))
  | .add fp, pl => sent (s.remote p pl (.vadd fp (q.data.setWidth 32)))
  | .red op x, .mem k =>
    (match s.atomicHome p (.mem k) op q.data x e.tag with
      | .wait => .wait
      | .fail c _ s' => .done [j] (if c = .memerr then s' else s'.refusedStore part q.va c)
      | .data _ s' => .done [j] s')
  | .red op x, pl => sent (s.remote p pl (.atomic op q.data x))

/-- Marks pieces done; an entry whose pieces are all done leaves the queue. -/
def Ctx.markDone (x : Ctx) (seq : Nat) (js : List Nat) : Ctx :=
  { x with sq := (x.sq.map fun e =>
      if e.seq = seq then { e with pieces := (e.pieces.zipIdx).map fun (q, i) => if js.contains i then { q with done := true } else q }
      else e).filter fun e => e.seq != seq || e.pieces.any fun q => q.waits e.ready }

/-- A piece of a queued store performs (R26, R231), if it may. -/
def State.perform (s : State) (p seq j : Nat) (window : Bool) : State :=
  match (s.core p).ctx.sq.find? (·.seq == seq) with
  | none => s
  | some e =>
    match e.pieces[j]? with
    | none => s
    | some q =>
      let isWin := match q.place with | .window _ _ => true | _ => false
      if isWin != window || !q.waits e.ready || !s.storeFree p e j q then s
      else match s.writePiece p e j q with
        | .wait => s
        | .done js s' => s'.mapCore p fun c => { c with ctx := c.ctx.markDone seq js }

/-- R26: STORE_PERFORM, of one single-copy atomic piece (R229) of the entry numbered `entry`. -/
def execStorePerform (core entry piece : Nat) (s : State) : Out := .next (s.perform core entry piece false)
/-- R212, R213: DEPOSIT, of one piece of a queued store into a filter window. -/
def execDeposit (core entry piece : Nat) (s : State) : Out := .next (s.perform core entry piece true)

/-! ### The load queue -/

/-- The access stream of a core runs: TASK mode and no stop under way (R297, R302). -/
def Core.streams (c : Core) : Bool :=
  (c.phase == .running || c.phase == .halting) && !c.sys && c.trap.isNone && !c.preempt && !c.dbg.stopped

/-- A fault charged to the oldest load traps once the loads before it are consumed (R301). -/
def State.loadFault (s : State) (p : Nat) : State :=
  match (s.core p).ctx.lq with
  | l :: _ =>
    (match l.fault with
      | some t => if (s.core p).streams then s.raise p t else s
      | none => s)
  | [] => s

/-- Replaces a load-queue entry. -/
def Ctx.setLoad (x : Ctx) (l : LEntry) : Ctx := { x with lq := x.lq.map fun m => if m.num = l.num then l else m }

/-- The registered cell that a place reads: the partition of its region and the key of its window word (R209, R222, R343). -/
def State.cellAt (s : State) (part : BitVec 4) (pl : Place) : Option (BitVec 4 × Nat) :=
  match s.real pl with
  | .window _ k => some (s.regionPart part pl, k)
  | _ => none

/-- The data of one piece of a queued load arrives, or its fault is charged to the entry (R26, R27, R301, R344). Elements that fall in one
cell are read together (R222), at whatever addresses. The spec does not say what a load finds whose region was deregistered after its checks:
FILTER with TINFO 3 at its entry is the model's choice (log 59). R301 names the first failing byte: that of several elements which fail the one
that is read first gives TADDR is the model's choice too (log 60). -/
def State.loadPiece (s : State) (p num j : Nat) : State :=
  let c := s.core p
  match c.ctx.lq.find? (·.num == num) with
  | none => s
  | some l =>
    match l.pieces[j]? with
    | none => s
    | some q =>
      let cell := s.cellAt c.seat.part q.place
      let one := fun (i : Nat) (r : Piece) => i == j || (cell.isSome && s.cellAt c.seat.part r.place == cell)
      let read := fun (x : Nat) =>
        l.pieces.zipIdx.map fun e => if one e.2 e.1 then ({ e.1 with done := true, data := w64 x } : Piece) else e.1
      let put := fun (s : State) (x : Nat) => s.mapCore p fun c => { c with ctx := c.ctx.setLoad { l with pieces := read x } }
      if !c.streams || l.dropped || l.fault.isSome || q.done then s
      else match s.source p (s.acc p l.seq l.cls q.place q.n) (l.pieces.map fun r => (r.place, r.n)) with
        | .wait => s
        | .from e => put s (s.forwarded e q.place q.n)
        | .none =>
          match s.readHome p q.place q.n (fun t => BitVec.ofInt 64 t.y) (.read q.n) l.tag with
            | .wait => s
            | .data x s' => put s' x
            | .fail k ti s' =>
              let t : TrapInfo := { cause := k, q := 1, tinfo := ti, taddr := q.va, tag := some l.tag }
              (s'.mapCore p fun c => { c with ctx := c.ctx.setLoad { l with fault := some t } }).loadFault p

/-- R26: LOAD_QUEUE_DATA for one piece of load number `idx`, or for every piece in turn. -/
def execLoadQueueData (core idx : Nat) (piece : Option Nat) (s : State) : Out :=
  match piece with
  | some j => .next (s.loadPiece core idx j)
  | none => .next ((List.range 1024).foldl (fun s j => s.loadPiece core idx j) s)

/-! ### Checks of a scalar access -/

/-- A read finds no registered region behind a window word (R211). -/
def State.unregistered (s : State) (p : Nat) (a : AKind) (pl : Place) : Bool :=
  match pl with
  | .window _ k => a.rd && (s.regionAt (s.core p).seat.part k).isNone
  | _ => false

/-- The checks of R59, R182 and R211: the place, a trap, or a wait. -/
def State.checkScalar (s : State) (p : Nat) (a : AKind) (ea : Word) (n : Nat) : Except Res Place :=
  if ea.toNat % n ≠ 0 then .error (.trap { cause := .align, taddr := ea })
  else if ea.toNat / 2 ^ 48 ≠ 0 then .error (.trap { cause := .xmiss, taddr := ea })
  else match s.check p a ea.toNat n with
    | .ok pl => if s.unregistered p a pl then .error (.fail (s.noteTrap p [ea.toNat]) { cause := .filter, tinfo := 3, taddr := ea }) else .ok pl
    | .trap c ti => .error (.fail (s.noteTrap p [ea.toNat]) { cause := c, tinfo := ti, taddr := ea })
    | .wait => .error .stall

/-- The checks of an access are over, and its walk has carried TIME (R319); then the watchpoints, before it performs (R328): the word ends
here, or goes on with the core. -/
def State.watched (s : State) (c : Core) (rd wr : Bool) (bytes : List Nat) (f : State → Core → Res) : Res :=
  let s := s.walked s.cur c.seat.part bytes
  match c.watch rd wr bytes with
  | .go => f s c
  | .trap t => .fail s t
  | .halt c' => .hold (s.setCore s.cur c')
  | .mark c' => f (s.setCore s.cur c') c'

/-- A scalar read of `n` bytes in class `cls` performs in its order (R24 to R27, R230). -/
def State.loadScalar (s : State) (p : Nat) (cls : BitVec 4) (pl : Place) (n : Nat) (f : Cell → Word) (req : PeerReq) (tag : LoopTag) : Got :=
  match s.source p (s.acc p (s.core p).ctx.seq cls pl n) [(pl, n)] with
  | .wait => .wait
  | .from e => .data (s.forwarded e pl n) s
  | .none => s.readHome p pl n f req tag

/-- A scalar load (R59, R60): `k` makes g[D] of the bytes read. -/
def load (o : OpM) (n : Nat) (k : Word → Word) (s : State) : Out :=
  word o.toGuard [bg o.b] (fun s c =>
    let ea := effAddr (c.rg o.b) o.o n
    match s.checkScalar s.cur { rd := true, s8 := n == 8, win := n == 4 } ea n with
    | .error r => r
    | .ok pl => s.watched c true false (run ea.toNat n) fun s c =>
      match s.loadScalar s.cur o.c pl n (fun t => BitVec.ofInt 64 t.y) (.read n) (c.loopTag o.toGuard) with
      | .wait => .stall
      | .fail q ti s' => .fail s' { cause := q, tinfo := ti, taddr := ea }
      | .data x s' => .ok (s'.mapCore s.cur fun c => c.setG o.r (k (w64 x)))) s

/-- The access of an instruction that is a scalar load: its operands and size. -/
def loadsOf : Instr → Option (OpM × Nat)
  | .ldB o | .ldBz o => some (o, 1)
  | .ldH o | .ldHz o => some (o, 2)
  | .ldW o | .ldWz o => some (o, 4)
  | .ldD o => some (o, 8)
  | _ => none

/-- R60: `ld.b`. -/
def execLdB (o : OpM) (s : State) : Out := load o 1 (sext · 8) s
/-- R60: `ld.bz`. -/
def execLdBz (o : OpM) (s : State) : Out := load o 1 (zext · 8) s
/-- R60: `ld.h`. -/
def execLdH (o : OpM) (s : State) : Out := load o 2 (sext · 16) s
/-- R60: `ld.hz`. -/
def execLdHz (o : OpM) (s : State) : Out := load o 2 (zext · 16) s
/-- R60, R211: `ld.w`. -/
def execLdW (o : OpM) (s : State) : Out := load o 4 (sext · 32) s
/-- R60, R211: `ld.wz`. -/
def execLdWz (o : OpM) (s : State) : Out := load o 4 (zext · 32) s
/-- R60: `ld.d`. -/
def execLdD (o : OpM) (s : State) : Out := load o 8 id s

/-- Appends a store-queue entry (R26). -/
def Ctx.pushStore (x : Ctx) (cls : BitVec 4) (kind : StKind) (pieces : List Piece) (ready : Bool) (scope : Option (BitVec 3))
    (tag : LoopTag) : Ctx :=
  { x with sq := x.sq ++ [⟨x.seq, cls, kind, pieces, ready, 0, scope, tag⟩], seq := x.seq + 1 }

/-- The colophon stands at a store to one of its registers: an earlier one has not performed, or the engine that it names is busy
(R358, R364). -/
def State.coloHolds (s : State) (c : Core) (pl : Place) : Bool :=
  match pl with
  | .mmio va => s.cur == Config.colophon &&
      (s.colo.busy (va - 0xFFFFC0000000) || c.ctx.sq.any fun e => e.pieces.any fun q => match q.place with | .mmio _ => true | _ => false)
  | _ => false

/-- A scalar store (R59, R61). -/
def store (o : OpM) (n : Nat) (s : State) : Out :=
  word o.toGuard [bg o.b, bg o.r] (fun s c =>
    let ea := effAddr (c.rg o.b) o.o n
    match s.checkScalar s.cur { wr := true, s8 := n == 8, win := n == 4 } ea n with
    | .error r => r
    | .ok pl => s.watched c false true (run ea.toNat n) fun s c =>
      let data := w64 ((c.rg o.r).toNat % 256 ^ n)
      if s.coloHolds c pl then .stall
      else s.okCore { c with ctx := c.ctx.pushStore o.c .plain [⟨ea, pl, n, true, data, false⟩] true none (c.loopTag o.toGuard) }) s

/-- R61: `st.b`. -/
def execStB (o : OpM) (s : State) : Out := store o 1 s
/-- R61: `st.h`. -/
def execStH (o : OpM) (s : State) : Out := store o 2 s
/-- R61, R211: `st.w`. -/
def execStW (o : OpM) (s : State) : Out := store o 4 s
/-- R61: `st.d`. -/
def execStD (o : OpM) (s : State) : Out := store o 8 s

/-! ### Taps (R223) -/

/-- The checks of `fld` and `fld2`: the window word's place. -/
def State.checkTap (s : State) (p : Nat) (ea : Word) : Except Res Place :=
  match s.checkScalar p { rd := true, win := true } ea 4 with
  | .error r => .error r
  | .ok (.window va k) => .ok (.window va k)
  | .ok (.peer va) => .ok (.peer va)
  | .ok _ => .error (.fail (s.noteTrap p [ea.toNat]) { cause := .filter, tinfo := 4, taddr := ea })

/-- R223: `fld`. -/
def execFld (o : OpFld) (s : State) : Out :=
  coreWord o.toGuard [bg o.b] (fun s c =>
    let ea := c.rg o.b
    match s.checkTap s.cur ea with
    | .error r => r
    | .ok pl => s.watched c true false (run ea.toNat 4) fun s c =>
      match s.loadScalar s.cur o.c pl 4 (tapValue · o.t) (.tap o.t) (c.loopTag o.toGuard) with
      | .wait => .stall
      | .fail q ti s' => .fail s' { cause := q, tinfo := ti, taddr := ea }
      | .data x s' => .ok (s'.mapCore s.cur fun c => (if o.u ≠ 0 then c.warn wTap else c).setG o.d (w64 x))) s

/-- R223: `fld2`; both taps come from one generation (R222). -/
def execFld2 (o : OpFld2) (s : State) : Out :=
  coreWord o.toGuard [bg o.b] (fun s c =>
    let ea := c.rg o.b
    match s.checkTap s.cur ea with
    | .error r => r
    | .ok pl => s.watched c true false (run ea.toNat 4) fun s c =>
      match s.loadScalar s.cur o.c pl 4 (tapValue · o.t) (.tap o.t) (c.loopTag o.toGuard) with
      | .wait => .stall
      | .fail q ti s' => .fail s' { cause := q, tinfo := ti, taddr := ea }
      | .data x s1 =>
        match s1.readHome s.cur pl 4 (tapValue · o.s) (.tap o.s) (c.loopTag o.toGuard) with
        | .wait => .stall
        | .fail q ti s' => .fail s' { cause := q, tinfo := ti, taddr := ea }
        | .data y s2 =>
          let d2 := o.d + 1
          .ok (s2.mapCore s.cur fun c =>
            ((if o.u ≠ 0 ∨ d2 = 0 then c.warn wTap else c).setG o.d (w64 x)).setG d2 (w64 y))) s

/-! ### Fences and atomics -/

/-- A fence with a class mask and a scope before the access `y` is complete (R193): each earlier access of the masked classes has performed, or
has left toward a home outside the scope. -/
def State.fenceDone (s : State) (p : Nat) (y : Acc) (mask : BitVec 16) (sc : Nat) : Bool :=
  ((s.older p y.seq).all fun e => !mask.getLsbD e.cls.toNat || e.pieces.all fun q =>
    !q.waits e.ready || (e.ready && !s.covers p sc (s.homeAt q.place))) &&
  ((s.loadsBefore p y).all fun l => !mask.getLsbD l.cls.toNat || l.pieces.all fun q => q.done || !s.covers p sc (s.homeAt q.place)) &&
  y.late.all fun l => !mask.getLsbD l.cls.toNat || !s.covers p sc (s.homeAt l.place)

/-- What a completed fence leaves on the accesses still under way to homes outside its scope. -/
def Core.fenced (c : Core) (mask : BitVec 16) : Core :=
  let x := c.ctx
  { c with
    ctx := { x with
      sq := x.sq.map fun e => if mask.getLsbD e.cls.toNat then { e with fenced := e.fenced ||| mask } else e
      lq := x.lq.map fun l => if mask.getLsbD l.cls.toNat then { l with fenced := l.fenced ||| mask } else l }
    late := c.late.map fun l => if mask.getLsbD l.cls.toNat then { l with fenced := l.fenced ||| mask } else l }

/-- R193: `fence`, with its fallbacks (R48). -/
def execFence (o : OpFence) (s : State) : Out :=
  word o.toGuard [] (fun s c =>
    let c' := if o.m = 0 ∨ 5 ≤ o.s.toNat then c.warn wFence else c
    if o.m = 0 then s.okCore c'
    else if s.fenceDone s.cur (s.acc s.cur c.ctx.seq 0 (.mem 0) 0) o.m (min o.s.toNat 4) then s.okCore (c'.fenced o.m)
    else .stall) s

/-- The scope of an atomic (R190): code 3 is pkg for a local address and sys for an export-window address; a lower code orders
as scope core there (R344). -/
def atomicScope (sc : BitVec 2) (pl : Place) : Nat :=
  match pl with
  | .peer _ => if sc = 3 then 4 else 0
  | _ => sc.toNat

/-- An access that orders as an atomic of scope `sc` may perform: its leading fence is complete, and it takes nothing by forwarding
(R191). -/
def State.atomicMay (s : State) (p : Nat) (y : Acc) (sc : Nat) : Bool :=
  let ovf := (s.older p y.seq).any fun e => e.cls == y.cls && e.pieces.any fun q => q.waits e.ready && s.overlaps q.place q.n y.place y.n
  !ovf && s.fenceDone p y (1 <<< y.cls.toNat) sc && !s.fencesHold p y && !s.orderHolds p true y

/-- The same for an access of `n` bytes of the word at the PC, in class `cls`. -/
def State.atomicFree (s : State) (p : Nat) (cls : BitVec 4) (sc : Nat) (pl : Place) (n : Nat) : Bool :=
  s.atomicMay p (s.acc p (s.core p).ctx.seq cls pl n) sc

/-- An atomic (R190 to R192); `op` is OP − 0x20. That g[D] counts as read (R306) by `amo.cas` alone, whose result alone rests on it, is
the model's choice (log 47). -/
def atomic (op : BitVec 4) (o : OpAmo) (s : State) : Out :=
  coreWord o.toGuard ([bg o.a, bg o.b] ++ if op = 7 then [bg o.d] else []) (fun s c =>
    let ea := c.rg o.a
    let b := c.rg o.b
    let x := c.rg o.d
    match s.checkScalar s.cur { rd := true, wr := true } ea 8 with
    | .error r => r
    | .ok pl => s.watched c (o.d != 0) true (run ea.toNat 8) fun s c =>
      let sc := atomicScope o.s pl
      if o.d = 0 then
        let piece : Piece := ⟨ea, pl, 8, true, b, false⟩
        s.okCore { c with ctx := c.ctx.pushStore o.c (.red op x) [piece] true (some (BitVec.ofNat 3 sc)) (c.loopTag o.toGuard) }
      else
        if !s.atomicFree s.cur o.c sc pl 8 then .stall
        else match s.atomicHome s.cur pl op b x (c.loopTag o.toGuard) with
          | .wait => .stall
          | .fail q ti s' => .fail s' { cause := q, tinfo := ti, taddr := ea }
          | .data old s' => .ok (s'.mapCore s.cur fun c => (c.setG o.d (w64 old)).fenced (1 <<< o.c.toNat))) s

/-- R190: `amo.add`. -/
def execAmoAdd (o : OpAmo) (s : State) : Out := atomic 0 o s
/-- R190: `amo.and`. -/
def execAmoAnd (o : OpAmo) (s : State) : Out := atomic 1 o s
/-- R190: `amo.or`. -/
def execAmoOr (o : OpAmo) (s : State) : Out := atomic 2 o s
/-- R190: `amo.xor`. -/
def execAmoXor (o : OpAmo) (s : State) : Out := atomic 3 o s
/-- R190: `amo.min`. -/
def execAmoMin (o : OpAmo) (s : State) : Out := atomic 4 o s
/-- R190: `amo.max`. -/
def execAmoMax (o : OpAmo) (s : State) : Out := atomic 5 o s
/-- R190: `amo.swp`. -/
def execAmoSwp (o : OpAmo) (s : State) : Out := atomic 6 o s
/-- R190: `amo.cas`. -/
def execAmoCas (o : OpAmo) (s : State) : Out := atomic 7 o s
/-- R190: `amo.minn`. -/
def execAmoMinn (o : OpAmo) (s : State) : Out := atomic 8 o s
/-- R190: `amo.maxn`. -/
def execAmoMaxn (o : OpAmo) (s : State) : Out := atomic 9 o s

/-! ### Vector memory words (R133 to R139) -/

/-- Addresses of the elements of `cols` elements that a memory word has in each row. -/
def elementAddrs (base : Word) (rows stride b cols : Nat) : List Word :=
  (List.range rows).flatMap fun r => (List.range cols).map fun j => base + w64 (r * stride + j * b)

/-- The checks of R134 over all rows: the places of the elements, a trap, or a wait. -/
def State.checkRows (s : State) (p : Nat) (a : AKind) (base : Word) (stride b : Nat) (as : List Word) :
    Except Res (List Place) :=
  if base.toNat % b ≠ 0 then .error (.trap { cause := .align, taddr := base })
  else if stride % b ≠ 0 then .error (.trap { cause := .align, taddr := base + w64 stride })
  else match as.find? fun v => v.toNat / 2 ^ 48 != 0 with
    | some v => .error (.trap { cause := .xmiss, taddr := v })
    | none =>
      let trap := fun (v : Word) (c : Cause) (ti : Word) =>
        Res.fail (s.noteTrap p (((as.takeWhile (· != v)) ++ [v]).map (·.toNat))) { cause := c, tinfo := ti, taddr := v }
      as.foldr (fun v r => match s.check p a v.toNat b with
        | .trap c ti => .error (trap v c ti)
        | .wait => .error .stall
        | .ok pl =>
          if s.unregistered p a pl then .error (trap v .filter 3)
          else match r with
            | .ok l => .ok (pl :: l)
            | .error e => .error e) (.ok [])

/-- The load queue holds 16 loads (R26). -/
def lqDepth : Nat := 16

/-- A vector memory word (R133 to R139): the checks (R134) and the watchpoints (R328) of all 64 elements of each row, the queue entry, then the
VU's queue. `vldb` reads of each row its first element alone (R136). -/
def vectorMem (op : VOp) (o : OpV) (s : State) : Out :=
  queueWord Guard.always [bg o.s, bg o.t] (fun s c =>
    let base := c.rg o.s
    let m := modOf op (c.rg o.t)
    let b := memBytes op m
    let isLoad := op == .vld || op == .vldb
    let rows := elementAddrs base m.rows m.stride b 64
    let a : AKind := { rd := isLoad || op == .vstadd, wr := !isLoad, win := b == 4 && op != .vstadd }
    match s.checkRows s.cur a base m.stride b rows with
    | .error r => r
    | .ok all =>
      s.watched c isLoad (!isLoad) (rows.flatMap fun v => run v.toNat b) fun s c =>
      let x := c.ctx
      let each := (rows.zip all).map fun (v, pl) => (⟨v, pl, b, true, 0, false⟩ : Piece)
      let pieces := if op == .vldb then (List.range m.rows).filterMap fun r => each[64 * r]? else each
      if vuDepth ≤ x.vu.queue.length ∨ (isLoad ∧ lqDepth ≤ x.lq.length) then .stall
      else if isLoad then
        let y : Ctx := { x with
          lq := x.lq ++ [⟨x.loads, x.seq, m.cls, pieces, 0, none, false, c.loopTag Guard.always⟩]
          loads := x.loads + 1
          seq := x.seq + 1 }
        s.okCore { c with ctx := y.pushVu ⟨0, some op, o, base, c.rg o.t, some x.loads, none, false, c.loopTag Guard.always⟩ }
      else
        let kind : StKind := if op = .vstadd then .add (m.et == 0) else .plain
        let y := x.pushStore m.cls kind pieces false none (c.loopTag Guard.always)
        s.okCore { c with ctx := y.pushVu ⟨0, some op, o, base, c.rg o.t, none, some x.seq, false, c.loopTag Guard.always⟩ }) s

/-- R135: `vld`. -/
def execVld (o : OpV) (s : State) : Out := vectorMem .vld o s
/-- R137: `vst`. -/
def execVst (o : OpV) (s : State) : Out := vectorMem .vst o s
/-- R136: `vldb`. -/
def execVldb (o : OpV) (s : State) : Out := vectorMem .vldb o s
/-- R138: `vstadd`. -/
def execVstadd (o : OpV) (s : State) : Out := vectorMem .vstadd o s
/-- R139: `vzero`. -/
def execVzero (o : OpV) (s : State) : Out := vectorMem .vzero o s

end Sys2Proof.Machine
end

