-- ==== Sys2Proof/Machine/Tokens.lean ====
section
/-!
DEFINITION. Tokens: barriers (R178, R179), the token words (R241 to R243) and the waymark words (R252 to R254).
-/

namespace Sys2Proof.Machine

/-! ### Barriers -/

/-- The fields of a sub-rectangle word (R179), and the number of its cores. -/
def rectX (r : BitVec 15) : Nat := bits r.toNat 4 0
@[inherit_doc rectX] def rectY (r : BitVec 15) : Nat := bits r.toNat 8 5
@[inherit_doc rectX] def rectLw (r : BitVec 15) : Nat := bits r.toNat 11 9
@[inherit_doc rectX] def rectLh (r : BitVec 15) : Nat := bits r.toNat 14 12
@[inherit_doc rectX] def rectN (r : BitVec 15) : Nat := 2 ^ rectLw r * 2 ^ rectLh r

/-- The sub-rectangle is aligned and lies in the task's rectangle (R162), and holds the core. -/
def rectHolds (t : Seat) (r : BitVec 15) : Bool :=
  let w := 2 ^ rectLw r
  let h := 2 ^ rectLh r
  decide (rectLw r ≤ 5) && decide (rectLh r ≤ 4) && rectX r % w == 0 && rectY r % h == 0 &&
  decide (rectX r + w ≤ 2 ^ t.lw) && decide (rectY r + h ≤ 2 ^ t.lh) &&
  decide (rectX r ≤ t.vx) && decide (t.vx < rectX r + w) && decide (rectY r ≤ t.vy) && decide (t.vy < rectY r + h)

/-- Completes the phases that are complete (R178): after one completion the next may be complete too. -/
def BarInst.settle (i : BarInst) : BarInst :=
  let n := rectN i.rect
  if i.cur = n then
    (if i.nxt = n then { i with o := i.o + 2, cur := 0, nxt := 0 } else { i with o := i.o + 1, cur := i.nxt, nxt := 0 })
  else i

/-- An arrival of a core whose arrival phase is `ph` (R179). -/
def BarInst.arrive (i : BarInst) (ph : Nat) : BarInst :=
  (if ph = i.o then { i with cur := i.cur + 1 } else { i with nxt := i.nxt + 1 }).settle

/-- The instance of a binding; one that nothing has reached holds zeros (R178). -/
def Task.bar (t : Task) (b : BarBind) : BarInst :=
  (t.bars.find? fun i => i.b == b.b && i.rect == b.rect).getD ⟨b.b, b.rect, 0, 0, 0⟩

/-- Replaces an instance. -/
def Task.setBar (t : Task) (i : BarInst) : Task :=
  { t with bars := i :: t.bars.filter fun j => !(j.b == i.b && j.rect == i.rect) }

/-- The instance of a binding of core `p`. -/
def State.bar (s : State) (p : Nat) (b : BarBind) : BarInst :=
  let c := s.core p
  match (s.part c.seat.part).task c.seat.tcb with
  | some t => t.bar b
  | none => ⟨b.b, b.rect, 0, 0, 0⟩

/-- Replaces the instance of a binding of core `p`. -/
def State.setBar (s : State) (p : Nat) (i : BarInst) : State :=
  let c := s.core p
  match (s.part c.seat.part).task c.seat.tcb with
  | some t => s.setPart c.seat.part ((s.part c.seat.part).setTask (t.setBar i))
  | none => s

/-- The binding of a barrier at a core. -/
def Ctx.bound (x : Ctx) (b : BitVec 7) : Option BarBind := x.bars.find? (·.b == b)

/-- Replaces a binding. -/
def Ctx.setBound (x : Ctx) (b : BarBind) : Ctx := { x with bars := x.bars.map fun c => if c.b == b.b then b else c }

/-- The phase that `bar.wait` waits for (R179): the largest phase below `ph` with the parity of `v`. -/
def waitPhase (ph v : Nat) : Option Nat :=
  if 1 ≤ ph ∧ (ph - 1) % 2 = v % 2 then some (ph - 1) else if 2 ≤ ph then some (ph - 2) else none

/-- A barrier word (R179): the NEEDS check first. -/
def barrier (o : OpBar) (reads : List Bad) (f : State → Core → Res) (s : State) : Out :=
  coreWord o.toGuard (.bars :: reads) (fun s c =>
    if !needsBar c.seat.needs o.i.toNat then .trap { cause := .barrier, tinfo := 3 } else f s c) s

/-- A word on a bound barrier. -/
def onBound (o : OpBar) (c : Core) (f : BarBind → Res) : Res :=
  match c.ctx.bound o.i with
  | none => .trap { cause := .barrier, tinfo := 4 }
  | some b => f b

/-- R179: `bar.init`. -/
def execBarInit (o : OpBar) (s : State) : Out :=
  barrier o [bg o.a] (fun s c =>
    let v := c.rg o.a
    let r : BitVec 15 := v.setWidth 15
    if v.toNat / 2 ^ 15 ≠ 0 ∨ !rectHolds c.seat r then .trap { cause := .barrier, tinfo := 1 }
    else if (c.ctx.bound o.i).isSome then .trap { cause := .barrier, tinfo := 2 }
    else s.okCore { c with ctx := { c.ctx with bars := ⟨o.i, r, 0, none⟩ :: c.ctx.bars } }) s

/-- An arrival at a sub-rectangle that spans the crossing reaches the other die, with the sender's TIME (R319, R336). -/
def State.crossBar (s : State) (p : Nat) (r : BitVec 15) : State :=
  let t := (s.core p).seat
  if dieOf (physAt p t (rectX r) t.vy) = dieOf (physAt p t (rectX r + 2 ^ rectLw r - 1) t.vy) then s
  else s.cross (dieOf p) (1 - dieOf p)

/-- An arrival that does not stall: it is counted and ph advances, in one step (R179). -/
def State.arriveBar (s : State) (o : OpBar) (b : BarBind) (owes : Option Nat) : State :=
  ((s.setBar s.cur ((s.bar s.cur b).arrive b.ph)).crossBar s.cur b.rect).mapCore s.cur fun c =>
    let c := c.setG o.a (w64 b.ph)
    { c with ctx := c.ctx.setBound { b with ph := b.ph + 1, owes := owes } }

/-- R179: `bar.arr`. -/
def execBarArr (o : OpBar) (s : State) : Out :=
  barrier o [] (fun s c => onBound o c fun b =>
    if b.ph = (s.bar s.cur b).o + 2 then .stall else .ok (s.arriveBar o b b.owes)) s

/-- R179: `bar.wait`. -/
def execBarWait (o : OpBar) (s : State) : Out :=
  barrier o [bg o.a] (fun s c => onBound o c fun b =>
    match waitPhase b.ph (c.rg o.a).toNat with
    | some q => if (s.bar s.cur b).o ≤ q then .stall else .ok s
    | none => .ok s) s

/-- The wait of a `bar.aw` whose arrival has been counted: while it stalls, the barrier state records it. -/
def State.owedWait (s : State) (b : BarBind) (x : Nat) : Res :=
  if (s.bar s.cur b).o ≤ x then .hold s
  else .ok (s.mapCore s.cur fun c => { c with ctx := c.ctx.setBound { b with owes := none } })

/-- R179: `bar.aw`. The arrival is counted once; a wait that stalls goes on alone. -/
def execBarAw (o : OpBar) (s : State) : Out :=
  barrier o [] (fun s c => onBound o c fun b =>
    match b.owes with
    | some x => s.owedWait b x
    | none =>
      if b.ph = (s.bar s.cur b).o + 2 then .stall
      else
        let b' : BarBind := { b with ph := b.ph + 1, owes := some b.ph }
        (s.arriveBar o b (some b.ph)).owedWait b' b.ph) s

/-! ### Token words -/

/-- A token slot of a context; slot 63 is none. -/
def Ctx.token (x : Ctx) (i : BitVec 6) : Tok := if h : i.toNat < 63 then x.tok[i.toNat]'h else ⟨0, 0, []⟩

/-- Is a slot satisfied for a snapshot (R242)? -/
def Tok.satisfied (t : Tok) (v : BitVec 16) : Bool := decide ((t.dn - v).toNat < 2 ^ 15)

/-- R243: `tok.wait`. -/
def execTokWait (o : OpTok) (s : State) : Out :=
  coreWord o.toGuard [.tok o.i.toNat] (fun s c =>
    let t := c.ctx.token (o.i.setWidth 6)
    if t.satisfied t.iss then .ok s else .stall) s

/-- R243: `tok.test`. -/
def execTokTest (o : OpTokP) (s : State) : Out :=
  coreWord o.toGuard [.tok o.i.toNat] (fun s c =>
    let t := c.ctx.token (o.i.setWidth 6)
    s.okCore (c.setP o.p (t.dn == t.iss))) s

/-- R243: `tok.snap`. -/
def execTokSnap (o : OpTokA) (s : State) : Out :=
  coreWord o.toGuard [.tok o.i.toNat] (fun s c => s.okCore (c.setG o.a ((c.ctx.token (o.i.setWidth 6)).iss.setWidth 64))) s

/-- R243: `tok.waitv`. -/
def execTokWaitv (o : OpTokA) (s : State) : Out :=
  coreWord o.toGuard [.tok o.i.toNat, bg o.a] (fun s c =>
    let t := c.ctx.token (o.i.setWidth 6)
    let v : BitVec 16 := (c.rg o.a).setWidth 16
    if (t.iss - t.dn).toNat < (v - t.dn).toNat then
      .trap { cause := .token, tinfo := w64 (o.i.toNat % 64 + 2 ^ 8) }
    else if t.satisfied v then .ok s else .stall) s

/-! ### Waymark words -/

/-- What a waymark word does at the owner port: it waits on, or leaves a state. -/
inductive Wmk
  | stay | go (s : State)

/-- A waymark word (R254): ALIGN, WINDOW, the watchpoints, the order of an atomic of class 0 and scope quire, then one step at
the owner port over the `n` bytes from offset `o`. -/
def waymarkWord (gd : Guard) (a : BitVec 5) (reads : List Bad) (o n : Nat) (f : State → Core → Nat → Nat → Wmk)
    (s : State) : Out :=
  coreWord gd (bg a :: reads) (fun s c =>
    let w := (c.rg a).toNat
    if w % 16 ≠ 0 then .trap { cause := .align, taddr := w64 w }
    else if w < 0xFF0000000000 ∨ 0xFF0001000000 ≤ w then .trap { cause := .window, taddr := w64 w }
    else match checkQuire s.cur c.seat w 16 with
      | .trap k ti => .trap { cause := k, tinfo := ti, taddr := w64 w }
      | .ok (.mem k) => s.watched c true true (run w 16) fun s c =>
        if !s.atomicFree s.cur 0 1 (.mem k) 16 then .stall
        else match s.firstMeet .uncorr (run (k + o) n) with
          | some b => .fail (s.reportKey 0x39 b (c.loopTag gd)) { cause := .memerr, taddr := w64 w }
          | none =>
            let s1 := ((s.reportCorr (run (k + o) n) (c.loopTag gd)).visit s.cur (homeOf k)).mapCore s.cur (·.fenced 1)
            (match f s1 (s1.core s.cur) w k with
              | .stay => .stall
              | .go s2 => .ok s2)
      | _ => .trap { cause := .window, taddr := w64 w }) s

/-- R254: `wmk.init`. -/
def execWmkInit (o : OpAB) (s : State) : Out :=
  waymarkWord o.toGuard o.a [bg o.b] 8 8 (fun s c _ k =>
    let m := s.waymark k
    .go (s.store c.seat.part k ({ m with target := (c.rg o.b).toNat % 2 ^ 32, count := 0, aux := 0 } : Waymark).bytes)) s

/-- R254: `wmk.wait`. -/
def execWmkWait (o : OpAB) (s : State) : Out :=
  waymarkWord o.toGuard o.a [bg o.b] 8 4 (fun s c _ k =>
    if (s.waymark k).gen = (c.rg o.b).toNat % 2 ^ 32 then .stay else .go s) s

/-- R254: `wmk.add`. -/
def execWmkAdd (o : OpAB) (s : State) : Out :=
  waymarkWord o.toGuard o.a [bg o.b] 0 16 (fun s c w k =>
    .go (s.arriveAt s.cur c.seat.part w k ((c.rg o.b).toNat % 2 ^ 32) (c.loopTag o.toGuard))) s

/-- R254: `wmk.gen`. -/
def execWmkGen (o : OpDA) (s : State) : Out :=
  waymarkWord o.toGuard o.a [] 8 4 (fun s c _ k => .go (s.setCore s.cur (c.setG o.d (w64 (s.waymark k).gen)))) s

/-- R254: `wmk.test`. -/
def execWmkTest (o : OpPAB) (s : State) : Out :=
  waymarkWord o.toGuard o.a [bg o.b] 8 4 (fun s c _ k =>
    .go (s.setCore s.cur (c.setP o.p ((s.waymark k).gen != (c.rg o.b).toNat % 2 ^ 32)))) s

end Sys2Proof.Machine
end

