-- ==== Sys2Proof/Machine/Engine.lean ====
section
/-!
DEFINITION. Engine: what the four engine queues share: issue (R39, R40, R239), start (R240, R242), completion (R241, R245,
R331), faults (R248, R282, R294) and the descriptor addresses that the sequencer checks (R202, R209, R247).
-/

namespace Sys2Proof.Machine

/-- FN of a command (R38). -/
def opFn : EngOp → Nat
  | .mload | .wtab | .cpy | .fbind => 0
  | .mswap | .wstream | .cnest | .ftick => 1
  | .mcfg | .cmc | .walk => 2
  | .mgo | .cacc => 3
  | .mstream | .cgat => 4
  | .mdrain | .csct => 5
  | .mzero | .cstage => 6
  | .mmode => 7

/-- The UNIT of a queue's records (R320). -/
def queueUnit : EngQ → TrUnit
  | .me => .me | .ws => .ws | .ce => .ce | .bank => .bank

/-- Q of TCAUSE for a queue (R291). -/
def queueCode : EngQ → BitVec 3
  | .me => 3 | .ws => 4 | .ce => 5 | .bank => 6

/-! ### Issue -/

/-- PAY of ISSUE, START and DONE (R322). -/
def engPay (op : EngOp) (tp : BitVec 6) (num : Nat) : Nat := opFn op + tp.toNat * 2 ^ 5 + num % 2 ^ 26 * 2 ^ 11

/-- A record of a command; a copy that a `cstage` released carries that entry's number (log 50). -/
def State.engRecord (s : State) (p evt : Nat) (k : Cmd) : State :=
  let u := queueUnit (opQueue k.op)
  s.emit (some p) (s.core p).seat.part p u evt k.tag (engPay k.op k.tp k.entry)

/-- The produced slot has 2^15 − 1 producers outstanding (R239). -/
def Tok.full (t : Tok) : Bool := (t.iss - t.dn) == 0x7FFF

/-- Counts a new producer of a slot (R239). -/
def Ctx.produce (x : Ctx) (tp : BitVec 6) : Ctx :=
  if h : tp.toNat < 63 then
    { x with tok := x.tok.set tp.toNat { x.tok[tp.toNat]'h with iss := (x.tok[tp.toNat]'h).iss + 1 } }
  else x

/-- An engine queue holds 32 commands (R239). -/
def engDepth : Nat := 32

/-- The command that a word issues (R39, R239, R245): its snapshots are taken before its own producer is counted. -/
def issueCmd (op : EngOp) (o : OpE) (c : Core) : Cmd where
  num := (c.ctx.eng (opQueue op)).next
  op := op
  tp := o.t
  a := c.rg o.a
  b := c.rg o.b
  snaps := (consumed (c.rg o.b)).map fun t => (t, (c.ctx.token t).iss)
  place := (c.ctx.token o.t).iss + 1
  st := .queued
  chan := (c.rg o.b).extractLsb' 37 3
  xid := c.ctx.ceid[((c.rg o.b).extractLsb' 37 3).toNat]'(BitVec.isLt _)
  sched := none
  tag := c.loopTag o.toGuard
  run := Run.fresh

/-- A command joins its queue; a transfer takes its identifier (R245). -/
def Ctx.enqueue (x : Ctx) (k : Cmd) : Ctx :=
  let e := x.eng (opQueue k.op)
  let x := (x.produce k.tp).setEng (opQueue k.op) { e with queue := e.queue ++ [k], next := e.next + 1 }
  if isTransfer k.op then { x with ceid := x.ceid.set k.chan.toNat (k.xid + 1) k.chan.isLt } else x

/-- R239: an engine command word. -/
def issue (op : EngOp) (o : OpE) (s : State) : Out :=
  queueWord o.toGuard [bg o.a, bg o.b, .tok o.t.toNat] (fun s c =>
    let b := c.rg o.b
    s.reading c o.toGuard ((consumed b).map fun t => .tok t.toNat) <| match issueTrap op c (c.rg o.a) with
      | some t => .trap t
      | none =>
        if o.t ≠ 63 ∧ (c.ctx.token o.t).full then .trap { cause := .token, tinfo := w64 o.t.toNat }
        else if engDepth ≤ (c.ctx.eng (opQueue op)).queue.length then .stall
        else
          let k := issueCmd op o c
          let c' := { c with ctx := c.ctx.enqueue k }
          .ok ((s.setCore s.cur (if namesSlot63 b then c'.warn wCmb else c')).engRecord s.cur 0x10 k)) s

/-- R274: `mload`. -/
def execMload (o : OpE) (s : State) : Out := issue .mload o s
/-- R275: `mswap`. -/
def execMswap (o : OpE) (s : State) : Out := issue .mswap o s
/-- R276: `mcfg`. -/
def execMcfg (o : OpE) (s : State) : Out := issue .mcfg o s
/-- R277: `mgo`. -/
def execMgo (o : OpE) (s : State) : Out := issue .mgo o s
/-- R278: `mstream`. -/
def execMstream (o : OpE) (s : State) : Out := issue .mstream o s
/-- R279: `mdrain`. -/
def execMdrain (o : OpE) (s : State) : Out := issue .mdrain o s
/-- R280: `mzero`. -/
def execMzero (o : OpE) (s : State) : Out := issue .mzero o s
/-- R281: `mmode`. -/
def execMmode (o : OpE) (s : State) : Out := issue .mmode o s
/-- R287: `wtab`. -/
def execWtab (o : OpE) (s : State) : Out := issue .wtab o s
/-- R288: `wstream`. -/
def execWstream (o : OpE) (s : State) : Out := issue .wstream o s
/-- R250: `cpy`. -/
def execCpy (o : OpE) (s : State) : Out := issue .cpy o s
/-- R251: `cnest`. -/
def execCnest (o : OpE) (s : State) : Out := issue .cnest o s
/-- R255: `cmc`. -/
def execCmc (o : OpE) (s : State) : Out := issue .cmc o s
/-- R256: `cacc`. -/
def execCacc (o : OpE) (s : State) : Out := issue .cacc o s
/-- R257: `cgat`. -/
def execCgat (o : OpE) (s : State) : Out := issue .cgat o s
/-- R257: `csct`. -/
def execCsct (o : OpE) (s : State) : Out := issue .csct o s
/-- R259: `cstage`. -/
def execCstage (o : OpE) (s : State) : Out := issue .cstage o s
/-- R209: `fbind`. -/
def execFbind (o : OpE) (s : State) : Out := issue .fbind o s
/-- R215: `ftick`. -/
def execFtick (o : OpE) (s : State) : Out := issue .ftick o s
/-- R202: `walk`. -/
def execWalk (o : OpE) (s : State) : Out := issue .walk o s

/-! ### Started commands -/

/-- A started command by its number. -/
def Ctx.cmd (x : Ctx) (q : EngQ) (num : Nat) : Option Cmd := (x.eng q).run.find? (·.num == num)

/-- Replaces a started command. -/
def Ctx.setCmd (x : Ctx) (k : Cmd) : Ctx :=
  let q := opQueue k.op
  x.setEng q { x.eng q with run := (x.eng q).run.map fun j => if j.num = k.num then k else j }

/-- Replaces a started command of core `p`. -/
def State.setCmd (s : State) (p : Nat) (k : Cmd) : State := s.mapCore p fun c => { c with ctx := c.ctx.setCmd k }

/-- The consumed slots are satisfied for the snapshots (R240, R242). -/
def Cmd.ready (k : Cmd) (x : Ctx) : Bool := k.snaps.all fun t => (x.token t.1).satisfied t.2

/-- A queue may start a command (R297, R326, R331). -/
def Core.mayStart (c : Core) (q : EngQ) : Bool := c.streams && !c.dbgHolds && !c.traceFull (queueUnit q)

/-- The head of a queue leaves it and is started (R240). -/
def State.startHead (s : State) (p : Nat) (k : Cmd) : State :=
  let q := opQueue k.op
  let k := { k with st := .running }
  (s.mapCore p fun c =>
    let e := c.ctx.eng q
    { c with ctx := c.ctx.setEng q { e with queue := e.queue.filter (·.num != k.num), run := e.run ++ [k] } }).engRecord p 0x11 k

/-- A command faults (R248, R282): EFAULT, and the trap charged to its entry. -/
def State.engFault (s : State) (p : Nat) (k : Cmd) (code : Nat) (t : TrapInfo) : State :=
  let q := opQueue k.op
  let t := { t with q := queueCode q, tag := some k.tag }
  let s := s.setCmd p { k with st := .faulted t }
  let s := s.emit (some p) (s.core p).seat.part p (queueUnit q) 0x13 k.tag (code % 2 ^ 8 + k.entry % 2 ^ 26 * 2 ^ 11)
  s.raise p t

/-- A command completes (R240, R241, R245): DONE, and its token and milepost, which a debug stop holds back (R331). -/
def State.engDone (s : State) (p : Nat) (k : Cmd) : State :=
  let q := opQueue k.op
  let s := s.engRecord p 0x12 k
  s.mapCore p fun c =>
    if c.dbgHolds then
      { c with
        ctx := c.ctx.setEng q ((c.ctx.eng q).without k.num)
        dbg := { c.dbg with
          heldTok := c.dbg.heldTok ++ [(k.tp, k.place)]
          heldMp := c.dbg.heldMp ++ (if isTransfer k.op then [(k.chan, k.xid)] else []) } }
    else { c with ctx := c.ctx.retire q k }

/-- The engines of core `p` work on what they have started: TASK mode, and no halt of the core (R297, R302). A started copy or
BANK command runs on while the core stops. -/
def Core.works (c : Core) (q : EngQ) : Bool :=
  match q with
  | .me | .ws => c.streams && !c.traceFull (queueUnit q)
  | _ => (c.phase == .running || c.phase == .halting) && !c.sys

/-- R294: TRAP_ENTRY, once every unit has reached its stop. -/
def execTrapEntry (core : Nat) (s : State) : Out :=
  let c := s.core core
  match c.trap with
  | some t => .next (if c.ctx.quiet then s.enterTrap core t else s)
  | none => .next s

/-- An engine write is refused its stripe or word by an uncorrectable error. -/
def memErr (a : Word) : TrapInfo := { cause := .memerr, taddr := a }

end Sys2Proof.Machine
end

