-- ==== Sys2Proof/Machine/Copy.lean ====
section
/-!
DEFINITION. Copy: the copy engine (R244 to R259, R345): descriptors, channels, the words of a transfer in any order, waymark
arrivals and closures, the lay-by, and copy schedules.
-/

namespace Sys2Proof.Machine

/-! ### Engine reads -/

/-- What an engine read gives: bytes, a failed check or error with its address, or a wait. -/
inductive Rd
  | ok (l : List Byte) (s : State)
  | fail (c : Cause) (va : Nat) (s : State)
  | wait

/-- What an engine's read of `n` bytes at `va` takes from a home. -/
def Got.rd (g : Got) (va n : Nat) : Rd :=
  match g with
  | .wait => .wait
  | .fail c _ s => .fail c va s
  | .data x s => .ok (leBytes n x) s

/-- Data read ahead at consecutive addresses, if all of it is there. -/
def Run.ahead (r : Run) (va n : Nat) : Option (List Byte) := (run va n).mapM (look r.buf)

/-- One piece of an engine read, of `n` bytes at `va`, checked as a load under R182. -/
def State.engPiece (s : State) (p : Nat) (k : Cmd) (va n : Nat) : Rd :=
  match k.run.ahead va n with
  | some l => .ok l s
  | none =>
    if va / 2 ^ 48 ≠ 0 then .fail .xmiss va s
    else match s.check p { rd := true } va n with
      | .wait => .wait
      | .trap c _ => .fail c va (s.noteTrap p [va])
      | .ok pl => ((s.walked p (s.core p).seat.part [va]).readHome p pl n (fun _ => 0) (.read n) k.tag).rd va n

/-- Pieces of a read in turn. -/
def State.engPieces (s : State) (p : Nat) (k : Cmd) : List (Nat × Nat) → Rd
  | [] => .ok [] s
  | (va, n) :: t =>
    match s.engPiece p k va n with
    | .ok l s' => (match s'.engPieces p k t with
        | .ok m s2 => .ok (l ++ m) s2
        | x => x)
    | x => x

/-- An engine read of `n` bytes at `va` (R182), in aligned words where it can. -/
def State.engRead (s : State) (p : Nat) (k : Cmd) (va n : Nat) : Rd :=
  s.engPieces p k (if va % 4 = 0 ∧ n % 4 = 0 then (List.range (n / 4)).map fun i => ((va + 4 * i) % 2 ^ 64, 4)
    else (List.range n).map fun i => ((va + i) % 2 ^ 64, 1))

/-- The bytes of a command's descriptor in the core's own scratchpad, or the address of an uncorrectable error. -/
def State.descRead (s : State) (p : Nat) (k : Cmd) (n : Nat) : Except Nat (List Byte × State) :=
  let key := spadKey p (k.a.toNat % 2 ^ 20)
  match s.firstMeet .uncorr (run key n) with
  | some b => .error (k.a.toNat + (b - key))
  | none => .ok (Memory.gets s.mem key n, s.reportCorr (run key n) k.tag)

/-- UNCORR for the failed read of a descriptor. -/
def State.noteDesc (s : State) (p : Nat) (k : Cmd) (va : Nat) : State := s.reportKey 0x39 (spadKey p (va % 2 ^ 20)) k.tag

/-! ### Descriptors (R246, R251) -/

/-- SRC, DST, LEN, FLAGS, AUXA. -/
def cSrc (d : List Byte) : Nat := fieldLE d 0 8
@[inherit_doc cSrc] def cDst (d : List Byte) : Nat := fieldLE d 8 8
@[inherit_doc cSrc] def cLen (d : List Byte) : Nat := fieldLE d 0x10 4
@[inherit_doc cSrc] def cFlags (d : List Byte) : Nat := fieldLE d 0x14 4
@[inherit_doc cSrc] def cAux (d : List Byte) : Nat := fieldLE d 0x18 8
/-- TAG, RX, SCH, WE, CLS of FLAGS. -/
def cTag (d : List Byte) : Nat := bits (cFlags d) 31 16
@[inherit_doc cTag] def cRx (d : List Byte) : Nat := bits (cFlags d) 11 8
@[inherit_doc cTag] def cSch (d : List Byte) : Nat := bits (cFlags d) 7 5
@[inherit_doc cTag] def cWe (d : List Byte) : Bool := (cFlags d).testBit 4
@[inherit_doc cTag] def cCls (d : List Byte) : Nat := bits (cFlags d) 3 0
/-- Row bytes and row count of `cgat` and `csct`. -/
def cRb (d : List Byte) : Nat := cLen d % 2 ^ 16
@[inherit_doc cRb] def cRows (d : List Byte) : Nat := cLen d / 2 ^ 16
/-- A signed stride of the nest extension. -/
def cStride (d : List Byte) (o : Nat) : Int := signed 32 (fieldLE d o 4)

/-- `cgat` and `csct`. -/
def isRows (op : EngOp) : Bool := op == .cgat || op == .csct

/-- The waymark address (R248, R257). -/
def wmkAddr (op : EngOp) (d : List Byte) : Nat := if isRows op then (cDst d + 2 ^ 64 - 16) % 2 ^ 64 else cAux d

/-- An address in the peer export windows (R181). -/
def isExport (va : Nat) : Bool := decide (0x800000000000 ≤ va) && decide (va < 0xC00000000000)
/-- An address in the task scratchpad range (R181). -/
def isTaskSpad (va : Nat) : Bool := decide (0xFC0000000000 ≤ va) && decide (va < 0xFC0020000000)

/-! ### Accesses of a copy (R248) -/

/-- The task scratchpad range. -/
def checkTaskSpad (p : Nat) (t : Seat) (va n : Nat) : Chk :=
  let off := va % 2 ^ 20
  let vx := bits va 24 20
  let vy := bits va 28 25
  if Config.spadBytes < off + n ∨ 2 ^ t.lw ≤ vx ∨ 2 ^ t.lh ≤ vy ∨ !needsSpad t.needs off n then .trap .window 0
  else .ok (.mem (spadKey (physAt p t vx vy) off))

/-- Some registered region's backing covers a key. -/
def State.covered (s : State) (k : Nat) : Bool :=
  s.regions.any fun r => r.cells.any (·.2 == k / 32 * 32)

/-- The checks of a copy access of `n` bytes, an aligned word or a waymark. -/
def State.copyCheck (s : State) (p : Nat) (wr : Bool) (va n : Nat) : Chk :=
  let a : AKind := { rd := !wr, wr := wr, win := n == 4 }
  if va / 2 ^ 48 ≠ 0 then .trap .xmiss 0
  else if isTaskSpad va then checkTaskSpad p (s.core p).seat va n
  else match s.check p a va n with
    | .trap .filter ti =>
      (match s.check p { a with bare := true } va n with
        | .ok (.mem k) => if s.covered k then .trap .filter ti else .ok (.mem k)
        | .ok pl => .ok pl
        | _ => .trap .filter ti)
    | r => r

/-- A `cmc` or `cacc` would leave the quire at an address: it is refused there (R345, log 53). -/
def Cmd.strays (k : Cmd) (va : Nat) : Bool := (k.op == .cmc || k.op == .cacc) && isExport va

/-- A copy reads one aligned word (R211, R229, R248). -/
def State.copyRead (s : State) (p : Nat) (k : Cmd) (va : Nat) : Rd :=
  match k.run.ahead va 4 with
  | some l => .ok l s
  | none => if k.strays va then .fail .xperm va s else match s.copyCheck p false va 4 with
    | .wait => .wait
    | .trap c _ => .fail c va (s.noteTrap p [va])
    | .ok pl => ((s.walked p (s.core p).seat.part [va]).readHome p pl 4 (fun t => BitVec.ofInt 64 t.y) (.read 4) k.tag).rd va 4

/-! ### The words of a transfer -/

/-- Words of a row. -/
def Cmd.rowWords (k : Cmd) : Nat := (if isRows k.op then cRb k.run.desc else cLen k.run.desc) / 4

/-- The number of words that a transfer moves. -/
def Cmd.words (k : Cmd) : Nat :=
  let d := k.run.desc
  match k.op with
  | .cnest => fieldLE d 0x20 4 * fieldLE d 0x24 4 * k.rowWords
  | .cgat | .csct => k.run.rows.length * k.rowWords
  | .cacc => k.run.pos
  | _ => k.rowWords

/-- Source and destination of word `w` (R250, R251, R257). -/
def Cmd.ends (k : Cmd) (w : Nat) : Nat × Nat :=
  let d := k.run.desc
  let row := w / k.rowWords
  let o := 4 * (w % k.rowWords)
  let wrap := fun (x : Int) => (x % 2 ^ 64).toNat
  match k.op with
  | .cnest =>
    let j1 : Int := row % fieldLE d 0x20 4
    let j2 : Int := row / fieldLE d 0x20 4
    (wrap (cSrc d + j1 * cStride d 0x28 + j2 * cStride d 0x30 + o), wrap (cDst d + j1 * cStride d 0x2C + j2 * cStride d 0x34 + o))
  | .cgat => (wrap (cSrc d + k.run.rows.getD row 0 * cRb d + o), wrap (cDst d + row * cRb d + o))
  | .csct => (wrap (cSrc d + row * cRb d + o), wrap (cDst d + k.run.rows.getD row 0 * cRb d + o))
  | _ => (wrap (cSrc d + 4 * w), wrap (cDst d + 4 * w))

/-- The words not yet written. -/
def Cmd.left (k : Cmd) : List Nat := (List.range k.words).filter fun w => !k.run.done.contains w

/-- The mask of `cgat` and `csct` has been read. -/
def Cmd.geometry (k : Cmd) : Bool := !isRows k.op || k.run.walk.started

/-- The place of a word's destination. -/
def State.dstPlace (s : State) (p : Nat) (k : Cmd) (w : Nat) : Option Place :=
  match s.copyCheck p true (k.ends w).2 4 with
  | .ok pl => some pl
  | _ => none

/-- The place of a word's source; a drain of a tile has none. -/
def State.srcPlace (s : State) (p : Nat) (k : Cmd) (w : Nat) : Option Place :=
  if k.op = .cacc then none
  else match s.copyCheck p false (k.ends w).1 4 with
    | .ok pl => some pl
    | _ => none

/-- The words whose source is the destination of word `w` (R248). -/
def State.sources (s : State) (p : Nat) (k : Cmd) (pl : Place) : List Nat :=
  (List.range k.words).filter fun v => (s.srcPlace p k v).map s.span == some (s.span pl)

/-- The destination of a word is overlapped: by a source word of the transfer, or by another destination word (R248, R251). -/
def State.clash (s : State) (p : Nat) (k : Cmd) (w : Nat) (pl : Place) : Bool :=
  !(s.sources p k pl).isEmpty ||
  (k.op == .cnest && (List.range k.words).any fun v => v != w && (s.dstPlace p k v).map s.span == some (s.span pl))

/-! ### Order within a channel (R244) -/

/-- A stop or debug stop holds the core's queues: what waits then no longer holds others back (R297, R331). -/
def Core.stopping (c : Core) : Bool := !c.streams || c.dbgHolds

/-- May a started transfer still write to a home? One that is to read its descriptor again, after a fault at its start, may (R304). -/
def State.writesTo (s : State) (p : Nat) (k : Cmd) (h : Home) : Bool :=
  let at4 := fun (va : Nat) => (match s.copyCheck p true (va % 2 ^ 64) 4 with | .ok pl => s.homeAt pl == h | _ => false)
  if k.op = .cmc then false
  else if k.run.status.isNone || !k.geometry then true
  else if k.op = .cacc ∧ k.run.parked.isNone then (List.range 1024).any fun i => at4 (cDst k.run.desc + 4 * i)
  else k.left.any fun w => at4 (k.ends w).2

/-- An earlier transfer of the channel with the class, in the order of issue, has not written all it writes to a home. -/
def State.behind (s : State) (p : Nat) (k : Cmd) (h : Home) : Bool :=
  let c := s.core p
  let before := fun (e : Cmd) => decide (e.entry < k.entry) || (e.entry == k.entry && decide (e.xid.toNat < k.xid.toNat))
  c.ctx.engCe.run.any fun e => isTransfer e.op && e.chan == k.chan && before e &&
    (e.run.status.isNone || cCls e.run.desc == cCls k.run.desc) && !(c.stopping && e.st != .running) && s.writesTo p e h

/-! ### Writing -/

/-- What the write of a word does. -/
inductive Wr
  | wait
  | fail (c : Cause) (va : Nat) (s : State)
  | done (k : Cmd) (ws : List Nat) (s : State)

/-- The four bytes of word `w`: of the drained tile, or of the source. -/
def State.wordData (s : State) (p : Nat) (k : Cmd) (w : Nat) : Rd :=
  if k.op = .cacc then .ok ((run (4 * w) 4).map fun i => (look k.run.buf i).getD 0) s else s.copyRead p k (k.ends w).1

/-- The bytes of a source word join a transfer's buffer. -/
def Cmd.keep (k : Cmd) (l : List Byte) (vas : List Nat) : Cmd :=
  { k with run := { k.run with
      buf := k.run.buf.filter (fun b => vas.all fun va => decide (b.1 < va) || decide (va + 4 ≤ b.1)) ++ vas.flatMap fun va => (Machine.run va 4).zip l } }

/-- The word of a filter cell that has been read at `va` serves every word left of the transfer whose source falls in that cell, so that one
generation is copied (R222). -/
def State.shareCell (s : State) (p : Nat) (k : Cmd) (va : Nat) (l : List Byte) : Cmd :=
  let cell := fun (a : Nat) => (match s.copyCheck p false a 4 with
    | .ok pl => s.cellAt (s.core p).seat.part pl
    | _ => none)
  if k.op == .cacc || (cell va).isNone then k
  else k.keep l (((k.left.map fun v => (k.ends v).1).eraseDups).filter fun a => cell a == cell va)

/-- The bytes of a group of words that write one protected unit together (R189, R365), with the transfer as their reads leave it (R222). -/
def State.groupBytes (s : State) (p : Nat) (k : Cmd) : List Nat → Option (List (Nat × Byte) × Cmd × State)
  | [] => some ([], k, s)
  | w :: t =>
    match s.dstPlace p k w, s.wordData p k w with
    | some (.mem a), .ok l s' => (s'.groupBytes p (s'.shareCell p k (k.ends w).1 l) t).map fun r => ((run a 4).zip l ++ r.1, r.2)
    | _, _ => none

/-- The words of a transfer that write a protected unit; one in a unit that is lent out is refused on its own (R348). -/
def State.groupOf (s : State) (p : Nat) (k : Cmd) (key : Nat) : List Nat :=
  k.left.filter fun w => match s.dstPlace p k w with
    | some (.mem a) => unitOf a == unitOf key && !s.lentOut a && s.clash p k w (.mem a) == false
    | _ => false

/-- The write of bytes of memory by word `w` (R189, R365). A unit with an error is written once for all the words that reach it, if together
they can be; it waits for a source that waits. A unit that is lent out refuses the write (R348). -/
def State.wordStore (s : State) (p : Nat) (k : Cmd) (w a : Nat) (l : List Byte) : Wr :=
  let part := (s.core p).seat.part
  let ks := run a 4
  let at_ := fun (s : State) => s.atHome (dieOf p) (homeOf a)
  let alone := match s.writeErr ks with
    | none => Wr.done k [w] (at_ s (·.store part a l k.tag))
    | some b => .fail .memerr (k.ends w).2 (at_ s (·.reportKey 0x39 b k.tag))
  if s.lentOut a then .fail .xperm (k.ends w).2 s
  else if s.writeWaits ks then .wait
  else if !s.sick ks then alone
  else
    let ws := s.groupOf p k a
    let kept := if k.op = .cacc then k else k.keep l [(k.ends w).1]
    if ws.any fun v => (match s.wordData p kept v with | .wait => true | _ => false) then .wait
    else match s.groupBytes p kept ws with
      | some (all, k', s') =>
        if !ws.contains w || (s'.writeErr (all.map (·.1))).isSome then alone
        else if s'.writeWaits (all.map (·.1)) then .wait
        else .done k' ws (at_ s' (·.storeMasked part all k.tag))
      | none => alone

/-- Writes the four bytes of word `w` at its place (R211, R244, R248, R344). -/
def State.wordWrite (s : State) (p : Nat) (k : Cmd) (w : Nat) (pl : Place) (l : List Byte) : Wr :=
  let part := (s.core p).seat.part
  let va := (k.ends w).2
  if s.behind p k (s.homeAt pl) then .wait
  else match pl with
    | .mem a => s.wordStore p k w a l
    | .window wv a =>
      if s.cellLent part a then .fail .xperm va s
      else if s.windowWaits part a then .wait
      else .done k [w] (s.atHome (dieOf p) (windowHome a) (·.deposit p part a (wv / 4) (BitVec.ofNat 32 (leNat l)) k.tag))
    | pl => match s.remote p pl (.write l) with
      | .wait => .wait
      | .refused c s' => .fail c va s'
      | .done _ s' => .done k [w] s'

/-- Reads words ahead into a transfer's buffer; a word that fails is left to its own turn. -/
def State.preRead (s : State) (p : Nat) (k : Cmd) (vas : List Nat) : Cmd × State :=
  vas.foldl (fun (r : Cmd × State) va =>
    if (r.1.run.ahead va 4).isSome then r
    else match r.2.copyRead p r.1 va with
      | .ok l s' => (s'.shareCell p (r.1.keep l [va]) va l, s')
      | _ => r) (k, s)

/-- A copy faults (R248): TINFO holds the code and the channel. A `cmc` gives back the slot that it had not filled. -/
def State.copyFault (s : State) (p : Nat) (k : Cmd) (code : Nat) (c : Cause) (va : Nat) : State :=
  let t : TrapInfo := { cause := c, tinfo := w64 (code + k.chan.toNat * 2 ^ 8), taddr := w64 va }
  match k.op, k.run.parked with
  | .cmc, some n =>
    let s := { s with tiles := s.tiles.filter fun i => !(i.quire == quireNo p && i.slot == n) }
    s.engFault p { k with run := { k.run with parked := none, done := [], buf := [] } } code t
  | _, _ => s.engFault p k code t

/-- Reads the mask of `cgat` or `csct` and selects the rows (R257). -/
def State.readMask (s : State) (p : Nat) (k : Cmd) : State :=
  let d := k.run.desc
  let n := cRows d
  let base := cAux d
  let words := ((List.range ((n + 7) / 8)).map fun i => (base + i) % 2 ^ 64 / 4 * 4).eraseDups
  let r := words.foldl (fun (r : Run × Rd) va => match r.2 with
    | .ok _ s' => (match s'.copyRead p { k with run := r.1 } va with
      | .ok l s2 => ({ r.1 with buf := (run va 4).zip l ++ r.1.buf }, .ok [] s2)
      | x => (r.1, x))
    | _ => r) (k.run, Rd.ok [] s)
  match r.2 with
  | .wait => s
  | .fail c va s' => s'.copyFault p k 0 c (if va < base ∧ base < va + 4 then base else va)
  | .ok _ s' =>
    let bit := fun i => ((look r.1.buf ((base + i / 8) % 2 ^ 64)).getD 0).getLsbD (i % 8)
    s'.setCmd p { k with run := { k.run with rows := (List.range n).filter bit, walk := { k.run.walk with started := true } } }

/-- A word of a started transfer is read and written (R248): overlapped sources are read first, and an overlapped destination
takes unspecified bytes. -/
def State.moveWord (s : State) (p : Nat) (k : Cmd) (w : Nat) : State :=
  let dst := (k.ends w).2
  match (if k.strays dst then .trap .xperm 0 else s.copyCheck p true dst 4) with
  | .wait => s
  | .trap c _ => (s.noteTrap p [dst]).copyFault p k 0 c dst
  | .ok pl =>
    let s := s.walked p (s.core p).seat.part [dst]
    let wasClash := k.op != .cacc && s.clash p k w pl
    let (k1, s1) := if wasClash then s.preRead p k ((s.sources p k pl).map fun v => (k.ends v).1) else (k, s)
    match s1.wordData p k1 w with
    | .wait => s
    | .fail c va s' => s'.copyFault p k 0 c va
    | .ok l s2 =>
      let k1 := s2.shareCell p k1 (k.ends w).1 l
      let l := if wasClash then (run s2.free 4).map Config.freeByte else l
      let s3 := if wasClash then { s2 with free := s2.free + 4 } else s2
      match s3.wordWrite p k1 w pl l with
      | .wait => s
      | .fail c va s' => s'.copyFault p k1 0 c va
      | .done k2 ws s' => s'.setCmd p { k2 with run := { k2.run with done := k2.run.done ++ ws } }

/-- A word of a `cmc` is read into its slot (R255). -/
def State.fillWord (s : State) (p : Nat) (k : Cmd) (w : Nat) : State :=
  let va := (k.ends w).1
  match s.copyRead p k va with
  | .wait => s
  | .fail c b s' => s'.copyFault p k 0 c b
  | .ok l s' =>
    let k := s'.shareCell p (k.keep l [va]) va l
    s'.setCmd p { k with run := { k.run with done := k.run.done ++ [w] } }

/-! ### Waymarks of copies (R253, R257, R345) -/

/-- Does a waymark address pass the start check (R248 code 4, R345)? An address of the quire or the task scratchpad range names a
scratchpad; whether the access is allowed shows when it is made, with code 0. -/
def waymarkOk (op : EngOp) (d : List Byte) : Bool :=
  let a := wmkAddr op d
  let far := isExport (cDst d)
  if a % 16 ≠ 0 then false
  else if isExport a then far && bits a 45 36 == bits (cDst d) 45 36
  else !far && (isTaskSpad a || (decide (0xFF0000000000 ≤ a) && decide (a < 0xFF0001000000)))

/-- Bytes written that have not arrived. -/
def Cmd.owed (k : Cmd) : Nat := 4 * k.run.done.length - k.run.arrived

/-- One arrival of a transfer, or its closure, at the waymark. -/
def State.arrival (s : State) (p : Nat) (k : Cmd) (n : Nat) : State :=
  let part := (s.core p).seat.part
  let d := k.run.desc
  let a := wmkAddr k.op d
  let k' := { k with run := { k.run with arrived := if isRows k.op then 1 else k.run.arrived + n } }
  match s.copyCheck p true a 16 with
  | .ok (.mem key) =>
    (match s.firstMeet .uncorr (run key 16) with
      | some b => (s.atHome (dieOf p) (homeOf key) (·.reportKey 0x39 b k.tag)).copyFault p k 0 .memerr a
      | none => (s.atHome (dieOf p) (homeOf key) fun s =>
          let s := s.reportCorr (run key 16) k.tag
          if isRows k.op then s.store part key ((s.waymark key).close k.run.rows.length).bytes
          else s.arriveAt p part a key n k.tag).setCmd p k')
  | .ok pl =>
    (match s.remote p pl (if isRows k.op then .closure k.run.rows.length else .arrival n) with
      | .wait => s
      | .refused .engine s' => s'.copyFault p k 4 .engine 0
      | .refused c s' => s'.copyFault p k 0 c a
      | .done _ s' => s'.setCmd p k')
  | .trap c _ => (s.noteTrap p [a]).copyFault p k 0 c a
  | .wait => s

/-- R253: WAYMARK_ARRIVAL of `bytes` bytes that have been written, or the closure once every row has (R257). -/
def execWaymarkArrival (core num bytes : Nat) (s : State) : Out :=
  let c := s.core core
  match c.ctx.cmd .ce num with
  | none => .next s
  | some k =>
    let due := if isRows k.op then k.geometry && k.left.isEmpty && k.run.arrived == 0
      else decide (0 < bytes) && decide (bytes ≤ k.owed)
    if k.st != .running || k.run.status.isNone || !c.works .ce || !cWe k.run.desc || !due then .next s
    else .next (s.arrival core k bytes)

/-! ### Start of a transfer (R244, R248) -/

/-- A zero field is set, or a field that the command uses is no multiple of 4, or a row field is 0 (code 3). -/
def copyCode3 (op : EngOp) (d : List Byte) : Bool :=
  let off := fun x => x % 4 != 0
  let lay := op == .cmc || op == .cacc
  bits (cFlags d) 15 12 != 0 || cSch d != 0 || (!lay && cTag d != 0) || (op != .cmc && cRx d != 0) ||
  (op == .cmc && cWe d) || (op != .cacc && off (cSrc d)) || (op != .cmc && off (cDst d)) ||
  (op != .cacc && !isRows op && off (cLen d)) ||
  (isRows op && (off (cRb d) || cRb d == 0 || cRows d == 0)) ||
  (op == .cnest && (fieldLE d 0x38 8 != 0 || [0x28, 0x2C, 0x30, 0x34].any fun o => off (fieldLE d o 4)))

/-- A `cmc` without receivers, with one outside the rectangle, or with a bad length (code 5). -/
def copyCode5 (p : Nat) (t : Seat) (d : List Byte) : Bool :=
  cRx d == 0 || [0, 1, 2, 3].any (fun m => (cRx d).testBit m && (quireMember p t m).isNone) || cLen d == 0 ||
  decide (4096 < cLen d)

/-- The code that a descriptor is refused with, the lowest that applies (R248). -/
def State.copyCode (s : State) (p : Nat) (op : EngOp) (d : List Byte) : Option Nat :=
  if copyCode3 op d then some 3
  else if cWe d ∧ !waymarkOk op d then some 4
  else if op = .cmc ∧ copyCode5 p (s.core p).seat d then some 5
  else none

/-- A transfer that its channel holds takes its descriptor; a `cacc` waits for its tile (R256). -/
def State.begin (s : State) (p : Nat) (k : Cmd) (d : List Byte) : State :=
  let k := { k with run := { k.run with desc := d } }
  match s.copyCode p k.op d with
  | some n => s.copyFault p k n .engine 0
  | none => s.setCmd p { k with
      st := (if k.op = .cacc then CmdSt.kept else .running)
      run := { k.run with status := some (0, 0) } }

/-- A transfer reads its descriptor, or starts again from it after a fault. The Copy faults table of R248 does not list this read: that an
uncorrectable error in it is code 0 with the channel in TINFO, cause MEMERR and the failing byte in TADDR, is the model's choice (log 60). -/
def State.open (s : State) (p : Nat) (k : Cmd) : State :=
  if k.sched.isSome then s.begin p k k.run.desc
  else match s.descRead p k (if k.op = .cnest then 64 else 32) with
    | .error b => (s.noteDesc p k b).copyFault p k 0 .memerr b
    | .ok (d, s') => s'.begin p k d

/-- One unit of work of a started copy: its mask, or word `w`. -/
def State.copyWork (s : State) (p num w : Nat) : State :=
  let c := s.core p
  match c.ctx.cmd .ce num with
  | none => s
  | some k =>
    if k.st != .running || !c.works .ce || !isTransfer k.op then s
    else if k.run.status.isNone then s.open p k
    else if !k.geometry then s.readMask p k
    else if k.words ≤ w ∨ k.run.done.contains w then s
    else if k.op = .cmc then (if k.run.parked.isSome then s.fillWord p k w else s)
    else s.moveWord p k w

/-- Transfers that a channel holds; at most four (R244). -/
def Ctx.onChannel (x : Ctx) (ch : BitVec 3) : Nat := (x.engCe.run.filter fun k => isTransfer k.op && k.chan == ch).length

/-! ### Schedules (R258, R259) -/

/-- A schedule read: its stages, malformed, a failed read, or a wait. -/
inductive Sched
  | ok (l : List Stage) (s : State)
  | bad (s : State)
  | fail (c : Cause) (va : Nat) (s : State)
  | wait

/-- A stage header is malformed. -/
def stageBad (h : List Byte) : Bool :=
  fieldLE h 2 2 != 0 || fieldLE h 0x18 8 != 0 || fieldLE h 0 2 == 0 || decide (64 < fieldLE h 0 2) || fieldLE h 4 4 == 0

/-- An entry is malformed: TAG, RX or a zero field is set. -/
def copyEntryBad (d : List Byte) : Bool := cFlags d / 2 ^ 8 != 0

/-- One word of the schedule: an access of the device's own, which must reach a normal page (R366). -/
def State.schedWord (s : State) (p : Nat) (k : Cmd) (va : Nat) : Rd :=
  let part := (s.core p).seat.part
  if s.devWaits part false va 4 then .wait
  else match s.devCheck part false va with
    | .wait => .wait
    | .trap c _ => .fail c va (s.noteTrap p [va])
    | .ok pl => ((s.walked p part [va]).readHome p pl 4 (fun _ => 0) (.read 4) k.tag).rd va 4

/-- Consecutive words of the schedule. -/
def State.schedBytes (s : State) (p : Nat) (k : Cmd) : Nat → Nat → Rd
  | _, 0 => .ok [] s
  | va, n + 1 =>
    match s.schedWord p k (va % 2 ^ 64) with
    | .ok l s' => (match s'.schedBytes p k (va + 4) n with
        | .ok m s2 => .ok (l ++ m) s2
        | x => x)
    | x => x

/-- The stages at `va`, `n` of them. -/
def State.stages (s : State) (p : Nat) (k : Cmd) : Nat → Nat → Sched
  | _, 0 => .ok [] s
  | va, n + 1 =>
    match s.schedBytes p k va 8 with
    | .wait => .wait
    | .fail c a s' => .fail c a s'
    | .ok h s1 =>
      if stageBad h then .bad s1
      else match s1.schedBytes p k (va + 32) (8 * fieldLE h 0 2) with
        | .wait => .wait
        | .fail c a s' => .fail c a s'
        | .ok b s2 =>
          let es := (List.range (fieldLE h 0 2)).map fun i => (b.drop (32 * i)).take 32
          if es.any copyEntryBad then .bad s2
          else match s2.stages p k (va + 32 + 32 * es.length) n with
            | .ok l s3 => .ok (⟨fieldLE h 4 4, fieldLE h 8 8, fieldLE h 0x10 8, es⟩ :: l) s3
            | x => x

/-- Reads the schedule at SCHEDP, as the first `cstage` that starts does. -/
def State.schedule (s : State) (p : Nat) (k : Cmd) (va : Nat) : Sched :=
  match s.schedBytes p k va 8 with
  | .wait => .wait
  | .fail c a s' => .fail c a s'
  | .ok h s' =>
    let n := fieldLE h 0 4
    if (h.drop 4).any (· != 0) ∨ n = 0 ∨ 256 < n then .bad s' else s'.stages p k (va + 32) n

/-- Unit `n` of a schedule: its stage and its place in it (R258). -/
def unitAt : List Stage → Nat → Option (Stage × Nat)
  | [], _ => none
  | g :: t, n => if n < g.rep then some (g, n) else unitAt t (n - g.rep)

/-- The copies of unit `j` of a stage: the channel and the descriptor of a `cpy`. -/
def Stage.unit (g : Stage) (j : Nat) : List (BitVec 3 × List Byte) :=
  g.copies.map fun d =>
    (BitVec.ofNat 3 (cSch d),
      leBytes 8 ((cSrc d + j * g.dsrc) % 2 ^ 64) ++ leBytes 8 ((cDst d + j * g.ddst) % 2 ^ 64) ++ leBytes 4 (cLen d) ++
        leBytes 4 (cFlags d - cSch d * 2 ^ 5) ++ leBytes 8 (cAux d))

/-- A released copy takes its identifier (R245). -/
def Ctx.releaseCopy (x : Ctx) (parent : Cmd) (ch : BitVec 3) (d : List Byte) : Ctx :=
  let id := x.ceid[ch.toNat]'ch.isLt
  let k : Cmd := { parent with
    num := 2 ^ 40 + id.toNat * 8 + ch.toNat, op := .cpy, tp := 63, snaps := [], place := 0, st := .queued, chan := ch, xid := id
    sched := some parent.num, run := { Run.fresh with desc := d } }
  { x with
    ceid := x.ceid.set ch.toNat (id + 1) ch.isLt
    engCe := { x.engCe with released := x.engCe.released ++ [k] } }

/-- A fault of `cstage` itself: TINFO[10:8] is 0 (R248). -/
def State.stageFault (s : State) (p : Nat) (k : Cmd) (code : Nat) (c : Cause) (va : Nat) : State :=
  (s.startHead p k).copyFault p { k with chan := 0 } code c va

/-- `cstage` starts (R259). -/
def State.startStage (s : State) (p : Nat) (k : Cmd) : State :=
  let c := s.core p
  let sp := match (s.part c.seat.part).task c.seat.tcb with
    | some t => t.schedp.toNat
    | none => 0
  let plan := match c.ctx.plan with
    | some l => Sched.ok l s
    | none => if sp = 0 ∨ sp % 32 ≠ 0 then .bad s else s.schedule p k sp
  match plan with
    | .wait => s
    | .bad s' => s'.stageFault p k 6 .engine 0
    | .fail q a s' => s'.stageFault p k 0 q a
    | .ok l s' =>
      let s' := s'.mapCore p fun c => { c with ctx := { c.ctx with plan := some l } }
      let u := k.a.toNat % 2 ^ 16
      let n := c.ctx.sched
      if (l.foldl (fun m g => m + g.rep) 0) < n + u then s'.stageFault p k 7 .engine 0
      else
        let copies := (run n u).flatMap fun i => match unitAt l i with
          | some (g, j) => g.unit j
          | none => []
        (s'.startHead p { k with run := { k.run with status := some (0, 0) } }).mapCore p fun c =>
          let x := copies.foldl (fun (x : Ctx) e => x.releaseCopy k e.1 e.2) c.ctx
          { c with ctx := { x with sched := n + u } }

/-! ### ENGINE_COMMAND_START of the CE -/

/-- A released copy is handed to its channel. -/
def State.handReleased (s : State) (p : Nat) (k : Cmd) : State :=
  let s := s.mapCore p fun c =>
    let e := c.ctx.engCe
    { c with ctx := { c.ctx with engCe := { e with
        released := e.released.filter (·.num != k.num), run := e.run ++ [{ k with st := .running }] } } }
  (s.engRecord p 0x11 k).open p k

/-- The head of the CE queue starts (R240, R244, R259): released copies go first. A debug stop lets the copies of a started
`cstage` go on (R331). -/
def State.startCe (s : State) (p : Nat) : State :=
  let c := s.core p
  let x := c.ctx
  match x.engCe.released, x.engCe.queue with
  | r :: _, _ => if !c.streams || c.traceFull .ce || 4 ≤ x.onChannel r.chan then s else s.handReleased p r
  | [], k :: _ =>
    if !c.mayStart .ce || !k.ready x then s
    else if k.op = .cstage then s.startStage p k
    else if 4 ≤ x.onChannel k.chan then s
    else (s.startHead p k).open p k
  | [], [] => s

/-! ### The lay-by (R255, R256) -/

/-- The tiles of a quire. -/
def State.tilesOf (s : State) (qn : Nat) : List Tile := s.tiles.filter (·.quire == qn)

/-- R255: PARKING. A `cmc` claims a free slot when no slot holds a tile of its task with its tag. -/
def execParking (core num : Nat) (s : State) : Out :=
  let c := s.core core
  match c.ctx.cmd .ce num with
  | none => .next s
  | some k =>
    let d := k.run.desc
    let qn := quireNo core
    let ts := s.tilesOf qn
    if k.op != .cmc || k.st != .running || k.run.status.isNone || k.run.parked.isSome || !c.works .ce || ts.any (·.isFor c.seat (cTag d)) then .next s
    else match (List.range 16).find? fun n => !ts.any (·.slot == n) with
      | none => .next s
      | some n =>
        let t : Tile := ⟨qn, n, c.seat.part, c.seat.tcb, BitVec.ofNat 16 (cTag d), 0, [], []⟩
        .next ({ s with tiles := s.tiles ++ [t] }.setCmd core { k with run := { k.run with parked := some n } })

/-- R256: TILE_DRAIN. A waiting `cacc` finds its parked tile, or has met it at a stop, and reads it; an uncorrectable error in it faults the
command (R306). -/
def execTileDrain (core num : Nat) (s : State) : Out :=
  let c := s.core core
  match c.ctx.cmd .ce num with
  | none => .next s
  | some k =>
    let qn := quireNo core
    let met := fun (t : Tile) => t.quire == qn && t.isFor c.seat (cTag k.run.desc) && some t.slot == k.run.parked
    if k.op != .cacc || k.run.status.isNone || !c.works .ce then .next s
    else
      let tile := if k.st == .kept && k.run.parked.isNone && c.streams then s.tileFor core k
        else if k.st == .running && k.run.pos == 0 then s.tiles.find? met else none
      match tile with
      | none => .next s
      | some t =>
        match t.bad with
        | dw :: _ => .next ((s.reportTile qn t.slot dw k.tag).engFault core { k with run := { k.run with parked := none } } 0
            { cause := .memerr, tinfo := 4 })
        | [] => .next (s.setCmd core { k with
          st := .running
          run := { k.run with parked := some t.slot, pos := t.bytes.length / 4, buf := (run 0 t.bytes.length).zip t.bytes } })

/-- The lay-by after a `cmc` or `cacc` completes. -/
def State.layBy (s : State) (p : Nat) (k : Cmd) : State :=
  let c := s.core p
  let qn := quireNo p
  let mine := fun (t : Tile) => t.quire == qn && some t.slot == k.run.parked && t.isFor c.seat (cTag k.run.desc)
  if k.op = .cmc then
    let bytes := (List.range k.words).flatMap fun w => (k.run.ahead (k.ends w).1 4).getD []
    { s with tiles := s.tiles.map fun (t : Tile) =>
        if mine t then ({ t with rx := BitVec.ofNat 4 (cRx k.run.desc), bytes := bytes } : Tile) else t }
  else if k.op = .cacc then
    let out := fun (t : Tile) => t.rx &&& ~~~((1 : BitVec 4) <<< memberNo c.seat)
    let l := s.tiles.map fun (t : Tile) => if mine t then ({ t with rx := out t } : Tile) else t
    { s with tiles := l.filter fun t => !(mine t && t.rx == 0) }
  else s

/-! ### ENGINE_COMMAND_COMPLETE of the CE -/

/-- The stripes that a transfer's deposits wrote are sealed (R240). -/
def State.sealedAll (s : State) (p : Nat) (k : Cmd) : Bool :=
  k.run.done.all fun w => match s.dstPlace p k w with
    | some pl => (match s.real pl with
      | .window _ a =>
        (match s.regionAt (s.regionPart (s.core p).seat.part pl) a with
          | some (r, i) => !isHbm (r.back i) || (run (r.back i) 32).all fun j => !s.hbm.pending.contains (stripeIdOf j)
          | none => true)
      | _ => true)
    | none => true

/-- A transfer has written everything, and everything has arrived and is sealed (R240, R255 to R257). -/
def State.copyOver (s : State) (p : Nat) (k : Cmd) : Bool :=
  k.st == .running && k.run.status.isSome && k.geometry && k.left.isEmpty &&
  (match k.op with
    | .cmc => k.run.parked.isSome
    | .cacc => decide (0 < k.run.pos) && (!cWe k.run.desc || k.owed == 0)
    | .cgat | .csct => !cWe k.run.desc || k.run.arrived == 1
    | _ => !cWe k.run.desc || k.owed == 0) &&
  (k.op == .cmc || s.sealedAll p k)

/-- Completes a transfer, or a `cstage` all of whose copies have completed (R259). -/
def State.completeCe (s : State) (p num : Nat) : State :=
  let e := (s.core p).ctx.engCe
  match e.run.find? (·.num == num) with
  | none => s
  | some k =>
    if k.op = .cstage then
      (if k.st == .running && !(e.run ++ e.released).any (·.sched == some num) then s.engDone p k else s)
    else if s.copyOver p k then (s.layBy p k).engDone p k else s

end Sys2Proof.Machine
end

