-- ==== Sys2Proof/Machine/Grid.lean ====
section
/-!
DEFINITION. Grid: the arithmetic of the matrix engine (R94 to R104): entry into the log grid, products, the exact pass result,
the accumulator update, tile records and activation rows (R266 to R269), the wave (R270), and the drain conversion (R279).
-/

namespace Sys2Proof.Machine

/-! ### Entry into the grid (R94 to R97) -/

/-- A grid value (−1)^s × 2^(e + f/32), with its zero and NaN flags; `inf` says that it came from an infinity (R270). -/
structure Grid where
  s : Bool
  z : Bool
  n : Bool
  inf : Bool
  e : Int
  f : Nat
  deriving DecidableEq, Repr

/-- Zero, NaN and infinity on entry. -/
def Grid.zero (s : Bool) : Grid := ⟨s, true, false, false, 0, 0⟩
@[inherit_doc Grid.zero] def Grid.nan (s : Bool) : Grid := ⟨s, false, true, false, 0, 0⟩
@[inherit_doc Grid.zero] def Grid.ofInf (s : Bool) : Grid := ⟨s, false, true, true, 0, 0⟩
/-- A nonzero number. -/
def Grid.num (s : Bool) (e : Int) (f : Nat) : Grid := ⟨s, false, false, false, e, f⟩

/-- F4[m] (R95). -/
def gridF4 (m : Nat) : Nat := [0, 5, 10, 15, 19, 22, 26, 29].getD m 0
/-- F2[m] (R95). -/
def gridF2 (m : Nat) : Nat := [0, 10, 19, 26].getD m 0

/-- MB[1] to MB[32] (R97). -/
def gridMb : List Nat :=
  [2, 5, 8, 11, 14, 17, 20, 23, 26, 30, 33, 37, 40, 44, 48, 52] ++
  [55, 59, 64, 68, 72, 76, 81, 85, 90, 95, 100, 105, 110, 115, 120, 126]

/-- A number with a 7-bit mantissa: 32 thresholds passed carry into the exponent (R97). -/
def gridOf7 (s : Bool) (e : Int) (m : Nat) : Grid :=
  let f := (gridMb.filter (· ≤ m)).length
  if f = 32 then .num s (e + 1) 0 else .num s e f

/-- An lg8 code (R95). -/
def gridLg8 (x : Nat) : Grid :=
  let l := x % 128
  if l = 0 then (if x.testBit 7 then .nan true else .zero false)
  else .num (x.testBit 7) (((l + 64) / 8 : Nat) - 16) (4 * ((l + 64) % 8))

/-- An E4M3 code (R95, R96). -/
def gridE4m3 (x : Nat) : Grid :=
  let s := x.testBit 7
  let ex := x / 8 % 16
  let m := x % 8
  if ex = 15 ∧ m = 7 then .nan s
  else if ex = 0 then
    (if m = 0 then .zero s else .num s ((m.log2 : Int) - 9) (gridF4 (m * 2 ^ (3 - m.log2) % 8)))
  else .num s ((ex : Int) - 7) (gridF4 m)

/-- An E5M2 code (R95, R96). -/
def gridE5m2 (x : Nat) : Grid :=
  let s := x.testBit 7
  let ex := x / 4 % 32
  let m := x % 4
  if ex = 31 then (if m = 0 then .ofInf s else .nan s)
  else if ex = 0 then
    (if m = 0 then .zero s else .num s ((m.log2 : Int) - 16) (gridF2 (m * 2 ^ (2 - m.log2) % 4)))
  else .num s ((ex : Int) - 15) (gridF2 m)

/-- A BF16 code (R95, R97). -/
def gridBf16 (x : Nat) : Grid :=
  let s := x.testBit 15
  let ex := x / 128 % 256
  let m := x % 128
  if ex = 255 then (if m = 0 then .ofInf s else .nan s)
  else if ex = 0 then
    (if m = 0 then .zero s else gridOf7 s ((m.log2 : Int) - 133) (m * 2 ^ (7 - m.log2) % 128))
  else gridOf7 s ((ex : Int) - 127) m

/-- A code of a format by its ET code (R95). -/
def gridOf (fmt x : Nat) : Grid :=
  if fmt = 1 then gridBf16 x else if fmt = 9 then gridE4m3 x else if fmt = 10 then gridE5m2 x else gridLg8 x

/-- The E8M0 scale of a block (R95): 0xFF makes a NaN of every element. -/
def Grid.scale (g : Grid) (c : Nat) : Grid := if c = 255 then { g with n := true } else { g with e := g.e + c - 127 }

/-! ### Products and passes (R98 to R101) -/

/-- The exact product of two grid values (R98). -/
def Grid.mul (a b : Grid) : Grid :=
  let s := a.s != b.s
  let i := a.inf || b.inf
  if a.n || b.n then { Grid.nan s with inf := i }
  else if a.z || b.z then .zero s
  else if 32 ≤ a.f + b.f then .num s (a.e + b.e + 1) (a.f + b.f - 32)
  else .num s (a.e + b.e) (a.f + b.f)

/-- The linear value of a product: sign, magnitude, power of two (R98). -/
def Grid.linear (g : Grid) : Bool × Nat × Int := if g.z then (false, 0, 0) else (g.s, t32At g.f, g.e - 23)

/-- MEFL bits (R102). -/
def meNan : BitVec 5 := 1
@[inherit_doc meNan] def meInf : BitVec 5 := 2
@[inherit_doc meNan] def meOvf : BitVec 5 := 4
@[inherit_doc meNan] def meLsat : BitVec 5 := 8
@[inherit_doc meNan] def meLufl : BitVec 5 := 16

/-- Is an FP32 code an infinity? -/
def isInf32 (x : Nat) : Bool := match fp32.get x with | .inf _ => true | _ => false

/-- The exact sum of linear values. -/
def linearSum (l : List (Bool × Nat × Int)) : Bool × Nat × Int :=
  l.foldl (fun a b => if b.2.1 = 0 then a else if a.2.1 = 0 then b else exactAdd a.1 a.2.1 a.2.2 b.1 b.2.1 b.2.2) (false, 0, 0)

/-- The pass result of a column's products (R100). -/
def passResult (l : List Grid) : Nat × BitVec 5 :=
  let i := if l.any (·.inf) then meInf else 0
  if l.any (·.n) then (fp32.nan, meNan ||| i)
  else
    let r := linearSum (l.map Grid.linear)
    if r.2.1 = 0 then (0, i)
    else
      let p := (fp32.round .rne r.1 r.2.1 r.2.2).1
      (p, if isInf32 p then meOvf ||| i else i)

/-- The accumulator update (R101). -/
def accUpdate (acc p : Nat) : Nat × BitVec 5 :=
  if fp32.isNan acc ∨ fp32.isNan p then (fp32.nan, 0)
  else
    let r := (fp32.add .rne acc p).1
    if fp32.isNan r then (fp32.nan, meNan)
    else (r, if isInf32 r ∧ !isInf32 acc ∧ !isInf32 p then meOvf else 0)

/-! ### Records (R266 to R269) -/

/-- The formats that the ME accepts, and where scaled (R266). -/
def meFormat (fmt : Nat) (sc : Bool) : Bool := (fmt == 1 && !sc) || fmt == 9 || fmt == 10 || fmt == 11
/-- Bytes of an element. -/
def meBytes (fmt : Nat) : Nat := if fmt = 1 then 2 else 1

/-- Bytes of a tile record (R267, R268). -/
def recordSize (fmt : Nat) (sc sp : Bool) : Nat :=
  16384 * meBytes fmt + (if sp then 4096 + (if sc then 1024 else 0) else if sc then 512 else 0)

/-- Elements of an activation row (R269). -/
def rowElems (sp : Bool) : Nat := if sp then 256 else 128
/-- Bytes of an activation row (R269). -/
def rowBytes (sp : Bool) (fmt : Nat) (sc : Bool) : Nat := rowElems sp * meBytes fmt + (if sc then rowElems sp / 32 else 0)

/-- A byte of a plane. -/
def Plane.byte (p : Plane) (o : Nat) : Nat := (p.bytes.getD o 0).toNat
/-- An element of a plane by its index in the record. -/
def Plane.elem (p : Plane) (i : Nat) : Nat :=
  if p.fmt = 1 then p.byte (2 * i) + 256 * p.byte (2 * i + 1) else p.byte i

/-- Logical positions of a column: all 128, or the kept ones of 256 in increasing order (R268). -/
def Plane.kept (p : Plane) (n : Nat) : List Nat :=
  if p.sp then
    (List.range 256).filter fun k => (p.byte (16384 * meBytes p.fmt.toNat + 32 * n + k / 8)).testBit (k % 8)
  else List.range 128

/-- The weight of the `i`-th position `k` of column `n`, with its block scale (R267, R268). -/
def Plane.weight (p : Plane) (n i k : Nat) : Grid :=
  let base := 16384 * meBytes p.fmt.toNat
  let g := gridOf p.fmt.toNat (p.elem (if p.sp then n * 128 + i else k * 128 + n))
  if p.sc then g.scale (p.byte (if p.sp then base + 4096 + 8 * n + k / 32 else base + k / 32 * 128 + n)) else g

/-- Each group of each column of a sparse record holds exactly N set bits (R268). -/
def Plane.groupsOk (p : Plane) : Bool :=
  !p.sp || (List.range 128).all fun n =>
    ((p.kept n).filter (· < 128)).length == p.n.toNat && ((p.kept n).filter (128 ≤ ·)).length == p.n.toNat

/-- Element `k` of an activation row of `e` elements, with its block scale (R269). -/
def actElem (row : List Byte) (e fmt : Nat) (sc : Bool) (k : Nat) : Grid :=
  let b := meBytes fmt
  let g := gridOf fmt (fieldLE row (b * k) b)
  if sc then g.scale (fieldLE row (e * b + k / 32) 1) else g

/-- A wave (R270): the new accumulator row and the flags. -/
def waveRow (p : Plane) (row : List Byte) (fmt : Nat) (sc accum : Bool) (old : Vector Elem 128) : Vector Elem 128 × BitVec 5 :=
  let acts := (List.range (rowElems p.sp)).map (actElem row (rowElems p.sp) fmt sc)
  let cols := (List.finRange 128).map fun (n : Fin 128) =>
    let ps := ((p.kept n.val).zipIdx).map fun (k, i) => (p.weight n.val i k).mul (acts.getD k (.zero false))
    let v := passResult ps
    if accum then
      let u := accUpdate (old[n]).toNat v.1
      (BitVec.ofNat 32 u.1, v.2 ||| u.2)
    else (BitVec.ofNat 32 v.1, v.2)
  (Vector.ofFn fun n => (cols.getD n.val (0, 0)).1, cols.foldl (fun f c => f ||| c.2) 0)

/-! ### The drain conversion (R104, R279) -/

/-- The rounding of a drain for a sign: away from zero is up for positive and down for negative numbers. -/
def drainMode (r : DrainRound) (neg : Bool) : Round :=
  match r with
  | .nearest => .rne
  | .rz => .rz
  | .ra => if neg then .rd else .ru

/-- The lg8 choice of a drain (R103). -/
def drainLg (r : DrainRound) : LgRound :=
  match r with
  | .nearest => .nearest
  | .rz => .rz
  | .ra => .ra

/-- MEFL bits of the flags of a conversion. -/
def drainFlags (f : Fl) : BitVec 5 :=
  (if f &&& flOF ≠ 0 then meOvf else 0) ||| (if f &&& flLSAT ≠ 0 then meLsat else 0) ||| (if f &&& flLUFL ≠ 0 then meLufl else 0)

/-- Overflow under SATF: the largest finite number in place of an infinity made from a finite value. -/
def saturate (f : Fmt) (satf neg : Bool) (r : Fres) : Fres := if satf ∧ r.2 &&& flOF ≠ 0 then (f.big neg, r.2) else r

/-- A value drained into a format (table "Drain conversion"). -/
def drainValue (fmt : Nat) (rm : DrainRound) (satf : Bool) (v : Fv) : Nat × BitVec 5 :=
  let neg := v.neg
  let md := drainMode rm neg
  let r : Fres :=
    if fmt = 1 then (match v with
      | .nan _ _ => (bf16.nan, 0)
      | .inf n => (bf16.inf n, 0)
      | .fin n m e => saturate bf16 satf n (bf16.round md n m e))
    else if fmt = 9 then (match v with
      | .nan _ _ => (0x7F, 0)
      | v => toE4m3 md v)
    else if fmt = 10 then (match v with
      | .nan _ _ => (0x7E, 0)
      | v => saturate e5m2 satf neg (toE5m2 md v))
    else toLg8 (drainLg rm) v
  (r.1, drainFlags r.2)

/-- An accumulator element drained unscaled. -/
def drainElem (fmt : Nat) (rm : DrainRound) (satf : Bool) (x : Nat) : Nat × BitVec 5 :=
  if fmt = 0 then (if fp32.isNan x then fp32.nan else x, 0) else drainValue fmt rm satf (fp32.get x)

/-- emax of a scaled format (R104, R279). -/
def scaleMax (fmt : Nat) : Int := if fmt = 9 then 8 else if fmt = 10 then 15 else 6

/-- A block of 32 elements in a scaled form (R104): the scale, the codes and the flags. That every element of an all-zero block is written
as +0, whatever its sign, is the model's choice (log 47). -/
def drainBlock (fmt : Nat) (rm : DrainRound) (satf : Bool) (l : List Nat) : Nat × List Nat × BitVec 5 :=
  let vs := l.map fp32.get
  let special := vs.any fun v => match v with | .fin _ _ _ => false | _ => true
  let tops := vs.filterMap fun v => match v with
    | .fin _ m e => if m = 0 then none else some (topBit m e)
    | _ => none
  if special then (255, l.map fun _ => if fmt = 9 then 0x7F else if fmt = 10 then 0x7E else 0x80, 0)
  else match tops with
    | [] => (0, l.map fun _ => 0, 0)
    | t :: ts =>
      let x := ts.foldl max t - scaleMax fmt
      let c := (max 0 (min (x + 127) 254)).toNat
      let rs := vs.map fun v => drainValue fmt rm satf (match v with | .fin n m e => .fin n m (e - (c - 127)) | v => v)
      (c, rs.map (·.1), rs.foldl (fun f r => f ||| r.2) 0)

/-- Bytes of an element of a drain. -/
def drainBytes (fmt : Nat) : Nat := if fmt = 0 then 4 else meBytes fmt

/-- A drained row (R279): its bytes and the flags. -/
def drainRow (fmt : Nat) (sc : Bool) (rm : DrainRound) (satf : Bool) (row : Vector Elem 128) : List Byte × BitVec 5 :=
  let l := row.toList.map (·.toNat)
  if sc then
    let bs := (List.range 4).map fun j => drainBlock fmt rm satf ((l.drop (32 * j)).take 32)
    (bs.flatMap (fun b => b.2.1.flatMap (leBytes (drainBytes fmt))) ++ bs.map (fun b => BitVec.ofNat 8 b.1),
      bs.foldl (fun f b => f ||| b.2.2) 0)
  else
    let rs := l.map (drainElem fmt rm satf)
    (rs.flatMap fun r => leBytes (drainBytes fmt) r.1, rs.foldl (fun f r => f ||| r.2) 0)

/-! ### Code tables and streams (R286, R288) -/

/-- A code table is well formed: complete, or one symbol of length 1. -/
def tableOk (t : List Byte) : Bool :=
  let ls := t.map (·.toNat)
  let live := ls.filter (· ≠ 0)
  ls.all (· ≤ 15) && ((live.map fun l => 2 ^ (15 - l)).foldl (· + ·) 0 == 2 ^ 15 || live == [1])

/-- The canonical codes: symbol, length, code. -/
def tableCodes (t : List Byte) : List (Nat × Nat × Nat) :=
  ((run 1 15).foldl (fun (a : List (Nat × Nat × Nat) × Nat) len =>
    let syms := (List.range 256).filter fun s => (t.getD s 0).toNat == len
    (a.1 ++ (syms.zipIdx).map fun (s, i) => (s, len, a.2 + i), (a.2 + syms.length) * 2)) ([], 0)).1

/-- A stream being decoded: the bits of the code begun, and the symbols, the latest first. -/
structure Inflate where
  len : Nat
  code : Nat
  out : List Byte
  left : Nat
  bad : Bool
  deriving DecidableEq, Repr

/-- One bit of a stream. -/
def Inflate.bit (cs : List (Nat × Nat × Nat)) (d : Inflate) (b : Bool) : Inflate :=
  if d.left = 0 ∨ d.bad then d
  else
    let len := d.len + 1
    let code := 2 * d.code + (if b then 1 else 0)
    match cs.find? fun c => c.2.1 == len && c.2.2 == code with
    | some c => { d with len := 0, code := 0, out := BitVec.ofNat 8 c.1 :: d.out, left := d.left - 1 }
    | none => { d with len := len, code := code, bad := !cs.any fun c => decide (len < c.2.1) && c.2.2 / 2 ^ (c.2.1 - len) == code }

/-- One byte of a stream, from bit 7 down. -/
def Inflate.byte (cs : List (Nat × Nat × Nat)) (d : Inflate) (b : Byte) : Inflate :=
  [7, 6, 5, 4, 3, 2, 1, 0].foldl (fun d i => d.bit cs (b.getLsbD i)) d

end Sys2Proof.Machine
end

