-- ==== Sys2Proof/Machine/Matrix.lean ====
section
/-!
DEFINITION. Matrix: the commands of the matrix engine and of the weight stream once they have started (R271 to R289): start
rules, the settings, loads of the shadow plane, waves, drains, and their faults (R282, R283).
-/

namespace Sys2Proof.Machine

/-! ### Faults and small helpers (R282) -/

/-- TINFO of an ME or WS fault. -/
def meInfo (op : EngOp) (code : Nat) : Word :=
  w64 (code + opFn op * 2 ^ 8 + (if opQueue op = .ws then 2 else 1) * 2 ^ 13)

/-- An ME or WS command faults with a code of R282. -/
def State.meFault (s : State) (p : Nat) (k : Cmd) (code : Nat) (c : Cause) (va : Nat) : State :=
  s.engFault p k code { cause := c, tinfo := meInfo k.op code, taddr := w64 va }

/-- Changes the ME state of a core. -/
def State.mapMe (s : State) (p : Nat) (f : Me → Me) : State :=
  s.mapCore p fun c => { c with ctx := { c.ctx with me := f c.ctx.me } }

/-- Sets MEFL bits (R102). -/
def State.meFlags (s : State) (p : Nat) (f : BitVec 5) : State := s.mapCore p fun c => { c with mefl := c.mefl ||| f }

/-- `n` bytes at `va` lie in the core's own scratchpad through SELF, inside the NEEDS bounds (R269, R279). -/
def inSelf (t : Seat) (va n : Nat) : Bool := decide (0xFF0000400000 ≤ va) && decide (va + n ≤ 0xFF0000400000 + Config.spadBytes) &&
  needsSpad t.needs (va - 0xFF0000400000) n

/-- Operand fields of `mload` and `wstream` (R274). -/
def kFmt (k : Cmd) : Nat := wbits k.b 3 0
@[inherit_doc kFmt] def kSc (k : Cmd) : Bool := k.b.getLsbD 4
@[inherit_doc kFmt] def kSp (k : Cmd) : Bool := k.b.getLsbD 5
@[inherit_doc kFmt] def kKeep (k : Cmd) : Nat := wbits k.b 15 8
/-- Operand fields of `mgo` and `mstream` (R277). -/
def kBase (k : Cmd) : Nat := wbits k.b 17 8
@[inherit_doc kBase] def kAccum (k : Cmd) : Bool := k.b.getLsbD 20
@[inherit_doc kBase] def kRows (k : Cmd) : Nat := wbits k.b 34 24
/-- Operand fields of `mdrain` and `mzero` (R279). -/
def dFmt (k : Cmd) : Nat := wbits k.b 27 24
@[inherit_doc dFmt] def dSc (k : Cmd) : Bool := k.b.getLsbD 28
@[inherit_doc dFmt] def dClearBit (k : Cmd) : Bool := k.b.getLsbD 29
@[inherit_doc dFmt] def dNrow (k : Cmd) : Nat := wbits k.b 20 10
@[inherit_doc dFmt] def dBase (k : Cmd) : Nat := wbits k.b 9 0
/-- Bytes of a record of a drain (R279). -/
def dSize (k : Cmd) : Nat := 128 * drainBytes (dFmt k) + (if dSc k then 4 else 0)

/-- A bad FMT, SC or KEEP of a tile (R274, code 2). -/
def tileBad (k : Cmd) : Bool := !meFormat (kFmt k) (kSc k) || (kSp k && (kKeep k == 0 || decide (64 < kKeep k)))

/-! ### Start (R271) -/

/-- Stream-path commands (R271). -/
def isStream (op : EngOp) : Bool := op == .mswap || op == .mgo || op == .mstream || op == .mdrain || op == .mzero
/-- Settings (R271). -/
def isSetting (op : EngOp) : Bool := op == .mcfg || op == .mmode

/-- The start condition of a command's kind (R271). -/
def meFree (e : Eng) (k : Cmd) : Bool :=
  let before := e.run.filter fun r => decide (r.num < k.num)
  if k.op = .mload then !before.any fun r => r.op == .mload || r.op == .mswap
  else if isStream k.op then !before.any fun r => isStream r.op || (k.op == .mswap && r.op == .mload)
  else true

/-- A setting takes effect (R276, R281), or faults. -/
def State.setting (s : State) (p : Nat) (k : Cmd) : State :=
  if k.op = .mcfg then
    let j := wbits k.b 2 0
    if h : j < 6 then
      (s.mapMe p fun m => { m with
        c := m.c.set j (k.b.extractLsb' 8 16) h
        ast := m.ast.set j (sext k.a 32) h
        rst := m.rst.set j (k.b.extractLsb' 24 12) h }).engDone p k
    else s.meFault p k 2 .engine 0
  else
    let r := wbits k.b 1 0
    let s := if r = 3 then s.mapCore p fun c => c.warn wRnd else s
    (s.mapMe p fun m => { m with
      rm := if r = 1 then .rz else if r = 2 then .ra else .nearest
      satf := k.b.getLsbD 2 }).engDone p k

/-- The lowest and highest row of a nest (R277). -/
def nestLo (base : Nat) (c : List Nat) (rst : List Int) : Int := (c.zip rst).foldl (fun a e => a + min 0 (((e.1 : Int) - 1) * e.2)) base
@[inherit_doc nestLo] def nestHi (base : Nat) (c : List Nat) (rst : List Int) : Int :=
  (c.zip rst).foldl (fun a e => a + max 0 (((e.1 : Int) - 1) * e.2)) base

/-- The code that a stream-path command is refused with before its first wave or row, and the failing address. -/
def State.streamCode (s : State) (p : Nat) (k : Cmd) : Option (Nat × Nat) :=
  let c := s.core p
  let nd := c.seat.needs
  let plane := fun (more : Option (Nat × Nat)) =>
    if !c.ctx.me.active.valid then some (1, 0) else if !meFormat (kFmt k) (kSc k) then some (2, 0) else more
  match k.op with
  | .mgo =>
    let lo := nestLo (kBase k) k.run.c k.run.rst
    let hi := nestHi (kBase k) k.run.c k.run.rst
    plane (if k.run.c.contains 0 then none
      else if lo < 0 ∨ !needsAcc nd lo.toNat (hi - lo + 1).toNat then some (4, 0) else none)
  | .mstream => plane (if 1024 < kRows k ∨ (kRows k ≠ 0 ∧ !needsAcc nd (kBase k) (kRows k)) then some (4, 0) else none)
  | .mdrain =>
    let f := dFmt k
    if !(f == 0 || meFormat f false) || (dSc k && (f == 0 || f == 1)) then some (2, 0)
    else if k.a.toNat % 4 ≠ 0 then some (3, k.a.toNat)
    else if 1024 < dNrow k ∨ (dNrow k ≠ 0 ∧ !needsAcc nd (dBase k) (dNrow k)) then some (4, 0)
    else if dNrow k ≠ 0 ∧ !inSelf c.seat k.a.toNat (dNrow k * dSize k) then some (5, k.a.toNat)
    else none
  | .mzero => if 1024 < dNrow k ∨ (dNrow k ≠ 0 ∧ !needsAcc nd (dBase k) (dNrow k)) then some (4, 0) else none
  | _ => none

/-- A stream-path command latches the nest and the drain mode (R271). -/
def Cmd.latch (k : Cmd) (m : Me) : Cmd :=
  { k with run := { k.run with
      c := m.c.toList.map (·.toNat), ast := m.ast.toList, rst := m.rst.toList.map (·.toInt), rm := m.rm, satf := m.satf } }

/-- The checks before the first wave or row, made when the command starts and again when it resumes after failing one. -/
def State.enlist (s : State) (p : Nat) (k : Cmd) : State :=
  match s.streamCode p k with
  | some (n, va) => s.meFault p k n .engine va
  | none => s.setCmd p { k with run := { k.run with status := some (0, 0) } }

/-- The head of the ME queue starts (R240, R271). -/
def State.startMe (s : State) (p : Nat) : State :=
  let c := s.core p
  match c.ctx.engMe.queue with
  | [] => s
  | k :: _ =>
    if !c.mayStart .me || !k.ready c.ctx || !meFree c.ctx.engMe k then s
    else
      let s := s.startHead p k
      let k := { k with st := .running }
      if isSetting k.op then s.setting p k
      else if k.op = .mload then
        (if tileBad k then s.meFault p k 2 .engine 0
         else if k.a.toNat % 64 ≠ 0 then s.meFault p k 3 .engine k.a.toNat
         else s)
      else
        s.enlist p (k.latch c.ctx.me)

/-! ### Loads of the shadow plane (R274, R289) -/

/-- The plane that a record makes (R267, R268). -/
def planeOf (k : Cmd) (l : List Byte) : Plane := ⟨true, BitVec.ofNat 4 (kFmt k), kSc k, kSp k, BitVec.ofNat 8 (kKeep k), l.toArray⟩

/-- A record latches into the shadow plane and the command completes, or its masks fault it. -/
def State.latchPlane (s : State) (p : Nat) (k : Cmd) (l : List Byte) : State :=
  let pl := planeOf k l
  if !pl.groupsOk then s.meFault p k 7 .engine 0
  else (s.mapMe p fun m => { m with shadow := pl }).engDone p k

/-- `mload` reads its record and latches it. -/
def State.loadTile (s : State) (p : Nat) (k : Cmd) : State :=
  match s.engRead p k k.a.toNat (recordSize (kFmt k) (kSc k) (kSp k)) with
  | .wait => s
  | .fail c va s' => s'.meFault p k 0 c va
  | .ok l s' => s'.latchPlane p k l

/-! ### Waves (R270, R277, R278) -/

/-- Waves or rows of a stream-path command. -/
def streamLen (k : Cmd) : Nat :=
  match k.op with
  | .mgo => k.run.c.foldl (· * ·) 1
  | .mstream => kRows k
  | .mdrain | .mzero => dNrow k
  | _ => 0

/-- Activation address and accumulator row of wave `i` (R277, R278). -/
def waveAt (k : Cmd) (sp : Bool) (i : Nat) : Nat × Nat :=
  if k.op = .mgo then
    let r := ((k.run.c.zip k.run.ast).zip k.run.rst).foldl (fun (a : Nat × Int × Int) e =>
      let n : Int := (a.1 % e.1.1 : Nat)
      (a.1 / e.1.1, a.2.1 + n * e.1.2.toInt, a.2.2 + n * e.2)) (i, (k.a.toNat : Int), (kBase k : Int))
    ((r.2.1 % 2 ^ 64).toNat, r.2.2.toNat)
  else ((k.a.toNat + i * rowBytes sp (kFmt k) (kSc k)) % 2 ^ 64, kBase k + i)

/-- The accumulator row of a number. -/
def Core.accRow (c : Core) (r : Nat) : Vector Elem 128 := c.acc[r % 1024]'(Nat.mod_lt _ (by decide))
/-- Writes an accumulator row with fresh check bits. -/
def Core.setAcc (c : Core) (r : Nat) (v : Vector Elem 128) : Core :=
  { c with acc := c.acc.set (r % 1024) v (Nat.mod_lt _ (by decide)), accBad := c.accBad.filter (· / 64 != r % 1024) }
/-- The doublewords of an accumulator row that hold an uncorrectable error; entry 64·row + doubleword names one (R283, R368). -/
def Core.accErrs (c : Core) (r : Nat) : List Nat := (c.accBad.filter (· / 64 == r % 1024)).map (· % 64)
/-- The errors that a command meets in a row are reported (R198, R283). -/
def State.rowErrs (s : State) (p r : Nat) (l : LoopTag) : State :=
  ((s.core p).accErrs r).foldl (fun s dw => s.reportAcc p r dw l) s

/-- The rows that a command targets. -/
def targetRows (k : Cmd) (sp : Bool) : List Nat :=
  match k.op with
  | .mgo | .mstream => (List.range (streamLen k)).map fun i => (waveAt k sp i).2
  | _ => run (dBase k) (dNrow k)

/-- Rows left unspecified (R283). -/
def State.freeRows (s : State) (p : Nat) (rows : List Nat) : State :=
  rows.foldl (fun s r =>
    let n := s.free
    { s.mapCore p fun c => { c.setAcc r (Vector.ofFn fun i => Config.freeAcc (n + i.val)) with accBad := c.accBad } with free := n + 128 }) s

/-- A command whose last wave or row has finished faults where it met errors in the accumulator store (R283): the rows concerned
are unspecified, and TADDR names the lowest and the highest. The command keeps what it met until that trap is taken, so that it raises it
again where another trap was taken first (R296). -/
def State.accFault (s : State) (p : Nat) (k : Cmd) : State :=
  let met := k.run.rows
  let sp := (s.core p).ctx.me.active.sp
  let rows := if k.op = .mdrain ∧ !dClearBit k then met else (targetRows k sp).eraseDups
  let lo := rows.foldl min (rows.headD 0)
  let hi := rows.foldl max 0
  let s := s.freeRows p rows
  let s := if k.op = .mdrain ∧ !dClearBit k then s
    else s.mapCore p fun c => { c with accBad := c.accBad.filter fun e => !rows.contains (e / 64) }
  s.meFault p k 6 .engine (lo + hi * 2 ^ 16)

/-- A wave or row is over: the position moves, and after the last one errors met fault the command. -/
def State.stepOver (s : State) (p : Nat) (k : Cmd) (met : List Nat) : State :=
  let k := { k with run := { k.run with pos := k.run.pos + 1, rows := k.run.rows ++ met } }
  let s := s.setCmd p k
  if streamLen k ≤ k.run.pos ∧ k.run.rows ≠ [] then s.accFault p k else s

/-- The next wave of a started `mgo` or `mstream` (R270): the checks of R269, then the row. Where a wave meets an accumulator error (R283), its row
takes the computed values with fresh check bits until the command's last wave; that it keeps them where another fault drops the command
first, is the model's choice (log 54). -/
def State.waveStep (s : State) (p : Nat) (k : Cmd) : State :=
  let c := s.core p
  let pl := c.ctx.me.active
  let (ar, r) := waveAt k pl.sp k.run.pos
  let n := rowBytes pl.sp (kFmt k) (kSc k)
  if ar % 4 ≠ 0 then s.meFault p k 3 .engine ar
  else if !inSelf c.seat ar n then s.meFault p k 5 .engine ar
  else match s.engRead p k ar n with
    | .wait => s
    | .fail q _ s' => s'.meFault p k 0 q ar
    | .ok l s' =>
      let hit := kAccum k && !(c.accErrs r).isEmpty
      let s' := if hit then s'.rowErrs p r k.tag else s'
      let (row, fl) := waveRow pl l (kFmt k) (kSc k) (kAccum k) (c.accRow r)
      ((s'.mapCore p fun c => c.setAcc r row).meFlags p fl).stepOver p k (if hit then [r] else [])

/-- The running command of the stream path. -/
def Ctx.streaming (x : Ctx) : Option Cmd := x.engMe.run.find? fun k => k.st == .running && isStream k.op

/-- R270: WAVE, the next wave of the running `mgo` or `mstream`. -/
def execWave (core : Nat) (s : State) : Out :=
  let c := s.core core
  match c.ctx.streaming with
  | some k =>
    if k.run.status.isSome && (k.op == .mgo || k.op == .mstream) && decide (k.run.pos < streamLen k) && c.works .me then .next (s.waveStep core k) else .next s
  | none => .next s

/-! ### Drains (R279, R280) -/

/-- The next row of a drain is read and converted, and its bytes wait to be written. The doublewords that the row covers in part are
written with it, so that a write that meets an uncorrectable error faults the command before the row has any effect (R282, R299, R365,
log 54). That a row which meets an accumulator error raises no flag of MEFL is the model's choice (R283, log 54). -/
def State.drainRead (s : State) (p : Nat) (k : Cmd) : State :=
  let c := s.core p
  let r := dBase k + k.run.pos
  let va := k.a.toNat + k.run.pos * dSize k
  let key := fun (a : Nat) => spadKey p (a % 2 ^ 20)
  let hit := !(c.accErrs r).isEmpty
  let (l, fl) := if hit then ((run s.free (dSize k)).map Config.freeByte, 0)
    else drainRow (dFmt k) (dSc k) k.run.rm k.run.satf (c.accRow r)
  let cells := (run va (dSize k)).zip l
  let edge := cells.filter fun b => (partWords ((run va (dSize k)).map key)).contains (key b.1 / 8)
  match s.writeErr (edge.map fun b => key b.1) with
  | some b =>
    let at4 := ((edge.map (·.1)).find? fun a => key a / 8 == b / 8).getD va
    (s.reportKey 0x39 b k.tag).meFault p k 0 .memerr at4
  | none =>
    let s := if hit then { s.rowErrs p r k.tag with free := s.free + dSize k } else s
    let s := s.storeMasked c.seat.part (edge.map fun b => (key b.1, b.2)) k.tag
    let s := if dClearBit k then s.mapCore p fun c => c.setAcc r (Vector.replicate 128 0) else s
    (s.meFlags p fl).setCmd p { k with run := { k.run with
      buf := cells.filter fun b => !edge.contains b
      rows := if hit then k.run.rows ++ [r] else k.run.rows } }

/-- One word of the row is written at the owner port; a word whose doubleword holds an error is written with its pair (R189). Where the
other half was written before the error arose, the write meets it and faults the command (R282), which goes on from there (log 54). -/
def State.drainWrite (s : State) (p : Nat) (k : Cmd) (i : Nat) : State :=
  match k.run.buf.drop (4 * i) with
  | [] => s
  | (va, _) :: _ =>
    let key := fun (a : Nat) => spadKey p (a % 2 ^ 20)
    let w := (k.run.buf.drop (4 * i)).take 4
    let pair := k.run.buf.filter fun b => key b.1 / 8 == key va / 8
    let now := if s.sick (w.map fun b => key b.1) then pair else w
    let left := k.run.buf.filter fun b => !(now.map (·.1)).contains b.1
    match s.writeErr (now.map fun b => key b.1) with
    | some b => (s.reportKey 0x39 b k.tag).meFault p k 0 .memerr va
    | none =>
      let s := s.storeMasked (s.core p).seat.part (now.map fun b => (key b.1, b.2)) k.tag
      let k := { k with run := { k.run with buf := left } }
      if left.isEmpty then s.stepOver p k [] else s.setCmd p k

/-- The next row of `mzero` (R280). -/
def State.zeroRow (s : State) (p : Nat) (k : Cmd) : State :=
  (s.mapCore p fun c => c.setAcc (dBase k + k.run.pos) (Vector.replicate 128 0)).stepOver p k []

/-- One unit of work of a started ME command; a drain finishes the row that it has begun (R284). -/
def State.meWork (s : State) (p num i : Nat) : State :=
  let c := s.core p
  match c.ctx.cmd .me num with
  | none => s
  | some k =>
    if k.st != .running then s
    else if k.op = .mdrain ∧ k.run.buf ≠ [] then (if c.works .ce then s.drainWrite p k i else s)
    else if !c.works .me then s
    else if isStream k.op ∧ k.run.status.isNone then s.enlist p k
    else match k.op with
      | .mload => s.loadTile p k
      | .mgo | .mstream => if k.run.pos < streamLen k then s.waveStep p k else s
      | .mdrain => if k.run.pos < dNrow k then s.drainRead p k else s
      | .mzero => if k.run.pos < dNrow k then s.zeroRow p k else s
      | _ => s

/-- Completes a started ME command that is over (R271): `mswap` exchanges the planes (R275). -/
def State.completeMe (s : State) (p num : Nat) : State :=
  let c := s.core p
  match c.ctx.cmd .me num with
  | none => s
  | some k =>
    if k.st != .running || !c.works .me then s
    else if isSetting k.op then s.setting p k
    else if k.op != .mload && k.run.status.isNone then s
    else if isStream k.op ∧ streamLen k ≤ k.run.pos ∧ k.run.buf = [] ∧ k.run.rows ≠ [] then s.accFault p k
    else if k.op = .mswap then (s.mapMe p fun m => { m with active := m.shadow, shadow := m.active }).engDone p k
    else if k.op != .mload && decide (streamLen k ≤ k.run.pos) && (k.op != .mdrain || k.run.buf.isEmpty) then s.engDone p k
    else s

/-! ### The weight stream (R285 to R288) -/

/-- The head of the WS queue starts once the previous command has completed (R285). -/
def State.startWs (s : State) (p : Nat) : State :=
  let c := s.core p
  match c.ctx.engWs.queue with
  | [] => s
  | k :: _ =>
    if !c.mayStart .ws || !k.ready c.ctx || !c.ctx.engWs.run.isEmpty then s
    else
      let s := s.startHead p k
      let k := { k with st := .running }
      if k.op = .wtab then (if k.a.toNat % 64 ≠ 0 then s.meFault p k 3 .engine k.a.toNat else s)
      else if c.ctx.ctab.isNone then s.meFault p k 10 .engine 0
      else if tileBad k then s.meFault p k 2 .engine 0
      else s

/-- `wtab` reads its table and latches it (R287). -/
def State.loadTable (s : State) (p : Nat) (k : Cmd) : State :=
  match s.engRead p k k.a.toNat 256 with
  | .wait => s
  | .fail c va s' => s'.meFault p k 0 c va
  | .ok l s' =>
    if !tableOk l then s'.meFault p k 8 .engine 0
    else (s'.mapCore p fun c => { c with ctx := { c.ctx with ctab := some l } }).engDone p k

/-- What decoding a stream gives. -/
inductive Stream
  | ok (l : List Byte) (s : State)
  | fail (code : Nat) (c : Cause) (va : Nat) (s : State)
  | wait

/-- Decodes the stream at `va`, of which `n` bytes are left (R288): a byte is read when a symbol needs it. R282 does not say whether code 9 has
a failing address: that TADDR holds the address of the stream's byte is the model's choice (log 54). -/
def State.inflate (s : State) (p : Nat) (k : Cmd) (cs : List (Nat × Nat × Nat)) (d : Inflate) (va : Nat) : Nat → Stream
  | 0 => if d.left = 0 then .ok d.out.reverse s else .fail 9 .engine va s
  | n + 1 =>
    if d.left = 0 then .ok d.out.reverse s
    else if !(decide (va < 2 ^ 48) && translated va) then .fail 5 .engine va s
    else match s.engPiece p k va 1 with
      | .wait => .wait
      | .fail c a s' => .fail 0 c a s'
      | .ok l s' =>
        let d := l.foldl (fun (d : Inflate) b => d.byte cs b) d
        if d.bad then .fail 9 .engine va s' else s'.inflate p k cs d ((va + 1) % 2 ^ 64) n

/-- `wstream` decodes its tile and latches it (R288). -/
def State.loadStream (s : State) (p : Nat) (k : Cmd) : State :=
  match (s.core p).ctx.ctab with
  | none => s.meFault p k 10 .engine 0
  | some t =>
    match s.inflate p k (tableCodes t) ⟨0, 0, [], recordSize (kFmt k) (kSc k) (kSp k), false⟩ k.a.toNat (wbits k.b 39 20) with
    | .wait => s
    | .fail n c va s' => s'.meFault p k n c va
    | .ok l s' => s'.latchPlane p k l

/-- One unit of work of a started WS command; `wtab` is indivisible, so it runs on while the core stops (R285). -/
def State.wsWork (s : State) (p num : Nat) : State :=
  let c := s.core p
  match c.ctx.cmd .ws num with
  | none => s
  | some k => 
    if k.st != .running then s
    else if k.op = .wtab then (if c.works .ce then s.loadTable p k else s)
    else if c.works .ws then s.loadStream p k else s

end Sys2Proof.Machine
end

