-- ==== Sys2Proof/Machine/Bank.lean ====
section
/-!
DEFINITION. Bank: the BANK commands once they have started: `fbind` (R206 to R210, R217, R224, R238), `ftick` (R214, R215, R221,
R225, R226) and `walk` (R202 to R205), with the queues and budgets of the stacks (R199, R201).
-/

namespace Sys2Proof.Machine

/-- Status codes of FSTAT and of result records (R205, R217). -/
def stOk : Nat := 0
@[inherit_doc stOk] def stBusy : Nat := 1
@[inherit_doc stOk] def stRejPower : Nat := 2
@[inherit_doc stOk] def stRejBusy : Nat := 3
@[inherit_doc stOk] def stFault : Nat := 5

/-- The slot of an `fbind` or `ftick`. -/
def kSlot (k : Cmd) : BitVec 4 := k.b.setWidth 4

/-- A filter slot. -/
def Ctx.slot (x : Ctx) (n : BitVec 4) : FSlot := x.fslots[n.toNat]'n.isLt
/-- Replaces a filter slot. -/
def Ctx.setSlot (x : Ctx) (n : BitVec 4) (f : FSlot) : Ctx := { x with fslots := x.fslots.set n.toNat f n.isLt }
/-- Changes a filter slot of a core. -/
def State.mapSlot (s : State) (p : Nat) (n : BitVec 4) (f : FSlot → FSlot) : State :=
  s.mapCore p fun c => { c with ctx := c.ctx.setSlot n (f (c.ctx.slot n)) }

/-- The status of a command stands. -/
def State.settle (s : State) (p : Nat) (k : Cmd) (code reason : Nat) : State :=
  s.setCmd p { k with run := { k.run with status := some (BitVec.ofNat 3 code, BitVec.ofNat 4 reason) } }

/-! ### Stack queues and budgets (R199, R201) -/

/-- A stack's queue holds 64 commands. -/
def Hbm.queueFull (h : Hbm) (k : Nat) : Bool := decide (64 ≤ h.queued[k % 8]'(Nat.mod_lt _ (by decide)))
/-- Budget left of a stack. -/
def Hbm.left (h : Hbm) (k : Nat) : Nat := h.budget[k % 8]'(Nat.mod_lt _ (by decide))
/-- A command is charged and joins the queue of a stack. -/
def Hbm.charge (h : Hbm) (k cost : Nat) : Hbm :=
  { h with
    budget := h.budget.set (k % 8) (h.left k - cost) (Nat.mod_lt _ (by decide))
    queued := h.queued.set (k % 8) ((h.queued[k % 8]'(Nat.mod_lt _ (by decide))) + 1) (Nat.mod_lt _ (by decide)) }
/-- Budget returns to a stack, up to its capacity. -/
def Hbm.refill (h : Hbm) (k n : Nat) : Hbm :=
  let cap := h.capacity[k % 8]'(Nat.mod_lt _ (by decide))
  { h with budget := h.budget.set (k % 8) (max (h.left k) (min cap (h.left k + n))) (Nat.mod_lt _ (by decide)) }
/-- A command leaves the queue of a stack, and unused charge returns. -/
def Hbm.finish (h : Hbm) (k back : Nat) : Hbm :=
  { h with queued := h.queued.set (k % 8) ((h.queued[k % 8]'(Nat.mod_lt _ (by decide))) - 1) (Nat.mod_lt _ (by decide)) }.refill k back

/-- REJECT (R198, R322). Its chunk is the first that the command has in the stack: of the result record, or of the backing (log 55). -/
def State.reject (s : State) (key code : Nat) : State :=
  let f := s.hbm.fields (stripeIdOf key) (channelOf key)
  s.memEvent f.1 f.2.1 .stack 0x3E (f.2.2 + code * 2 ^ 8)

/-- The first key of a list in a stack. -/
def firstIn (keys : List Nat) (h : Nat) : Nat := (keys.find? fun b => isHbm b && stackOf b == h).getD 0

/-! ### `fbind` (R209) -/

/-- The keys of a cell's window word and backing entry, on leaves of the right types and target (R209 reason 3), outside
units that are lent out (R348, log 55). R209 sets aside the permissions of the window leaves; that the backing leaves' permissions and
the partition's bank mask are not checked either is the model's choice (log 55). -/
def State.cellKeys (s : State) (part : BitVec 4) (d : List Byte) (i : Nat) : Option (Nat × Nat) :=
  let leaf := fun (va type : Nat) => (if 2 ^ 48 ≤ va ∨ !translated va then none else match s.xlat part va with
    | .leaf l =>
      if l.type = type ∧ l.tgt = (if dPlace d = 0 then 1 else 0) then (l.key va).filter fun k => !(isHbm k && s.lentOut k) else none
    | _ => none)
  match leaf (dWin d + 4 * i) 1, leaf (dBack d + 32 * i) 2 with
  | some w, some b => if homeNo w = homeNo b then some (w, b) else none
  | _, _ => none

/-- Translations of a region that must wait for memory. -/
def State.regionWaits (s : State) (part : BitVec 4) (d : List Byte) : Bool :=
  (List.range (dCells d)).any fun i => s.xlat part (dWin d + 4 * i) == .wait || s.xlat part (dBack d + 32 * i) == .wait

/-- Two descriptors agree in every byte but CFG bit 12. -/
def sameRegion (a b : List Byte) : Bool :=
  let f := fun (l : List Byte) => l.zipIdx.map fun (x, i) => if i = 0x15 then x &&& 0xEF else x
  f a == f b

/-- A region has a cell whose home is `h`. -/
def Region.atHome (r : Region) (h : Nat) : Bool := r.cells.any fun c => homeNo c.2 == h

/-- A window word or backing entry of a region. -/
def Region.uses (r : Region) (c : Nat × Nat) : Bool := r.cells.any fun e => e.1 == c.1 || e.2 == c.2

/-- The reason for which the homes refuse a descriptor `d` (R209): at each in turn, where the region of its WIN, `old`, is registered,
a descriptor that differs (4), and where it is not, a conflict with another region (4) or the limit of R224 (5). That the homes are
examined in the order of the cells, and that a region registered at none of them whose descriptor differs is a conflict too, is the
model's choice (log 55). -/
def State.refuseRegion (s : State) (old : Option Region) (d : List Byte) (cells : List (Nat × Nat)) : Option Nat :=
  let here := fun (h : Nat) => old.any (·.atHome h)
  let differs := old.any fun r => !sameRegion r.desc d
  let found := ((cells.map fun c => homeNo c.2).eraseDups).findSome? fun h =>
    if here h then (if differs then some 4 else none)
    else if (cells.filter fun c => homeNo c.2 == h).any fun c => s.regions.any (fun r => some r != old && r.uses c) then some 4
    else if (if h < 128 then 16 else 64) ≤ (s.regions.filter (·.atHome h)).length then some 5
    else none
  match found with
  | some e => some e
  | none => if differs then some 4 else none

/-- A region bound once more: it is counted, and registered where its cells now stand (R185, R209). The cells of before a new mapping stay
registered behind them. One count stands for all its homes (log 55). -/
def Region.again (r : Region) (cells : List (Nat × Nat)) : Region :=
  { r with count := r.count + 1, cells := cells ++ r.cells.filter (!cells.contains ·) }

/-- Stacks among homes. -/
def stacksOf (keys : List Nat) : List Nat := ((keys.filter isHbm).map stackOf).eraseDups

/-- The sticky bits of a region go to the slot (R217). -/
def FSlot.gather (f : FSlot) (r : Region) : FSlot := { f with sat := !r.sat.isEmpty, ovf := !r.ovf.isEmpty }

/-- The slot is bound to a region. -/
def State.bindSlot (s : State) (p : Nat) (k : Cmd) (r : Region) : State :=
  (s.mapSlot p (kSlot k) fun f => { f with bound := some r.win }).settle p k stOk 0

/-- The command reaches the homes of these keys and answers: both messages carry TIME (R319). -/
def State.visitAll (s : State) (p : Nat) (keys : List Nat) : State :=
  ((keys.map windowHome).eraseDups).foldl (fun s h => s.visit p h) s

/-- A newly registered region with CLEAR = 1 has its backing zeroed (R209). An entry in a stripe that cannot be written leaves everything as
it was, with FAULT 7 (R365, log 55). -/
def State.clearRegion (s : State) (p : Nat) (k : Cmd) (r : Region) : State :=
  let backs := r.cells.map (·.2)
  let ks := backs.flatMap fun b => run b 32
  if backs.any s.cellWaits then s
  else match s.writeErr ks with
    | some b => (s.reportKey 0x39 b k.tag).settle p k stFault 7
    | none =>
      let s := (s.unitRebuilt ks).unitWriteAll r.part (ks.map fun j => (j, 0))
      { s with regions := s.regions ++ [r] }.bindSlot p k r

/-- `fbind` with the descriptor that it read at its start: every step, or nothing (R209). -/
def State.bindRegion (s : State) (p : Nat) (k : Cmd) : State :=
  let part := (s.core p).seat.part
  let d := k.run.desc
  let vas := (List.range (dCells d)).flatMap fun i => [dWin d + 4 * i, dBack d + 32 * i]
  if dMalformed d then s.settle p k stFault 2
  else if s.regionWaits part d then s
  else match (List.range (dCells d)).mapM (s.cellKeys part d) with
    | none =>
      let good := ((List.range (dCells d)).takeWhile fun i => (s.cellKeys part d i).isSome).length
      (s.walked p part (vas.take (2 * good + 2))).settle p k stFault 3
    | some cells =>
      let backs := cells.map (·.2)
      let s1 := (s.walked p part vas).visitAll p backs
      let full := (stacksOf backs).find? s.hbm.queueFull
      let old := s.regionOf part (w64 (dWin d))
      match s.refuseRegion old d cells, full, old with
      | some e, _, _ => s1.settle p k stFault e
      | none, some h, _ => (s1.reject (firstIn backs h) stRejBusy).settle p k stRejBusy 0
      | none, none, some r => (s1.setRegion (r.again cells)).bindSlot p k r
      | none, none, none =>
        let r : Region := ⟨part, w64 (dWin d), d, cells, 1, [], [], [], []⟩
        if dClear d then s1.clearRegion p k r else { s1 with regions := s1.regions ++ [r] }.bindSlot p k r

/-- `fbind` (R209): slot state first, then unbind or bind. -/
def State.bindWork (s : State) (p : Nat) (k : Cmd) : State :=
  let c := s.core p
  match k.a == 0, (c.ctx.slot (kSlot k)).bound with
  | true, none | false, some _ => s.settle p k stFault 1
  | true, some w =>
    let s := match s.regionOf c.seat.part w with
      | some (r : Region) => s.visitAll p (r.cells.map Prod.snd)
      | none => s
    ((s.unbind c.seat.part w).mapSlot p (kSlot k) fun f => { f with bound := none }).settle p k stOk 0
  | false, none => s.bindRegion p k

/-! ### `ftick` (R215) -/

/-- The region of an `ftick`'s slot. -/
def State.tickRegion (s : State) (p : Nat) (k : Cmd) : Option Region :=
  let c := s.core p
  (c.ctx.slot (kSlot k)).bound.bind fun w => s.regionOf c.seat.part w

/-- Cells of the range of an accepted `ftick`. -/
def tickCells (k : Cmd) : List Nat := run (k.run.c.getD 0 0) (k.run.c.getD 1 0)

/-- 64-byte chunks of backing in a stack; each costs 2 units (R225). -/
def tickCost (keys : List Nat) (stack : Nat) : Nat := 2 * ((keys.filter fun b => isHbm b && stackOf b == stack).map (· / 64)).eraseDups.length

/-- The decision on an `ftick`: slot, range, then queue and budget of every stack at once (R215). -/
def State.tickAdmit (s : State) (p : Nat) (k : Cmd) : State :=
  match s.tickRegion p k with
  | none => s.settle p k stFault 1
  | some r =>
    let cells := dCells r.desc
    let first := k.a.toNat
    let n := if wbits k.b 35 4 = 0 then cells - first else wbits k.b 35 4
    if cells ≤ first ∨ n = 0 ∨ cells < first + n then s.settle p k stFault 6
    else
      let keys := (run first n).map r.back
      let s := s.visitAll p keys
      let hit := stacksOf keys
      match hit.find? s.hbm.queueFull, hit.find? fun h => decide (s.hbm.left h < tickCost keys h) with
      | some h, _ => (s.reject (firstIn keys h) stRejBusy).settle p k stRejBusy 0
      | none, some h => (s.reject (firstIn keys h) stRejPower).settle p k stRejPower 0
      | none, none =>
        let s := { s with hbm := hit.foldl (fun h i => h.charge i (tickCost keys i)) s.hbm }
        s.setCmd p { k with run := { k.run with c := [first, n], walk := { k.run.walk with started := true } } }

/-- The granule in which a cut is taken (R221, R224): the bank, or in HBM a chunk of a DRAM bank. -/
def granule (key : Nat) : Nat := if isHbm key then 128 + key / 64 else spineBank key

/-- The part of a chunk's charge, one read and one write, that a tick did not use (R201, R225). -/
def unusedOf (did : List TickDid) : Byte := if did.contains .wrote then 0 else if did.contains .read then 1 else 2

/-- The charge of an `ftick` that returns to a stack. -/
def tickUnused (k : Cmd) (h : Nat) : Nat := ((k.run.buf.filter fun e => e.1 == h).map (·.2.toNat)).sum

/-- The cells of one granule tick together, with its cut (R214, R221, R226). The tick begins an interval of the sticky bits and belongs to
it, which is the model's choice (log 45). -/
def State.tickGranule (s : State) (p : Nat) (k : Cmd) (i : Nat) : State :=
  match s.tickRegion p k with
  | none => s
  | some r =>
    let key := r.back i
    let cells := (tickCells k).filter fun j => !k.run.done.contains j && granule (r.back j) == granule key
    if cells.any fun j => s.cellWaits (r.back j) then s
    else
      let h := homeNo key
      let s := s.visit p (windowHome key)
      let s := if k.run.rows.contains h then s else s.newInterval r h
      let (did, s) := cells.foldl (fun (a : List TickDid × State) j => match a.2.regionOf r.part r.win with
        | some r' => let t := a.2.tickAt p r' j k.tag; (t.1 :: a.1, t.2)
        | none => a) ([], s)
      s.setCmd p { k with run := { k.run with
        done := k.run.done ++ cells
        rows := if k.run.rows.contains h then k.run.rows else h :: k.run.rows
        arrived := if did.all (· == .wrote) then k.run.arrived else 1
        buf := k.run.buf ++ (if isHbm key then [(stackOf key, unusedOf did)] else []) } }

/-- The stripes of a backing entry are sealed. -/
def Hbm.sealedEntry (h : Hbm) (b : Nat) : Bool := !isHbm b || (run b 32).all fun j => !h.pending.contains (stripeIdOf j)

/-- An `ftick` is over: every cell has ticked and every stripe is sealed. -/
def State.tickOver (s : State) (p : Nat) (k : Cmd) : Bool :=
  match s.tickRegion p k with
  | none => true
  | some r => (tickCells k).all fun i => k.run.done.contains i && s.hbm.sealedEntry (r.back i)

/-- A stripe is still being written by an `ftick` that its stack unit has accepted: a cell of it there has not ticked. -/
def State.unitWriting (s : State) (stripe : Nat) : Bool :=
  s.cores.any fun (p, c) => c.ctx.engBank.run.any fun k =>
    k.op == .ftick && k.st == .running && k.run.walk.started && k.run.status.isNone &&
    match s.tickRegion p k with
    | some r => (tickCells k).any fun j => !k.run.done.contains j && isHbm (r.back j) && (run (r.back j) 32).any (stripeIdOf · == stripe)
    | none => false

/-- R200: SEAL of a parity-pending stripe, as soon as every bank that writes it has finished; its parity waits for a retraining channel
beside a failed one (R197). -/
def execSeal (stripe : Nat) (s : State) : Out :=
  if s.hbm.pending.contains stripe && !s.unitWriting stripe && !s.hbm.held (stripe / 50331648) (parityOf stripe) then
    .next { s with hbm := s.hbm.sealed stripe }.sinksGo
  else .next s

/-! ### `walk` (R203 to R205) -/

/-- ROOT, KEY, RES and the fields of CTL. -/
def walkRoot (d : List Byte) : Nat := fieldLE d 0 8
@[inherit_doc walkRoot] def walkKey (d : List Byte) : Nat := fieldLE d 8 8
@[inherit_doc walkRoot] def walkRes (d : List Byte) : Nat := fieldLE d 0x10 8
@[inherit_doc walkRoot] def walkCtl (d : List Byte) : Nat := fieldLE d 0x18 8
@[inherit_doc walkRoot] def walkMaxs (d : List Byte) : Nat := bits (walkCtl d) 41 32
@[inherit_doc walkRoot] def walkIb (d : List Byte) : Nat := bits (walkCtl d) 20 16
@[inherit_doc walkRoot] def walkLv (d : List Byte) : Nat := bits (walkCtl d) 14 13
@[inherit_doc walkRoot] def walkHb (d : List Byte) : Nat := bits (walkCtl d) 12 8
@[inherit_doc walkRoot] def walkKind (d : List Byte) : Nat := bits (walkCtl d) 1 0

/-- The checks that end a walk at once with FAULT (R204). -/
def walkBad (d : List Byte) : Bool :=
  let c := walkCtl d
  walkKind d == 3 || bits c 63 42 != 0 || bits c 31 21 != 0 || bits c 15 15 != 0 || bits c 7 2 != 0 || walkMaxs d == 0 ||
  (walkKind d == 1 && (walkHb d == 0 || decide (24 < walkHb d))) || (walkKind d == 2 && (walkIb d == 0 || decide (16 < walkIb d)))

/-- The cost charged to a walk (R201). -/
def walkCost (d : List Byte) : Nat := min (walkMaxs d + 2) 1024

/-- What a translation or a read of a walk gives. -/
inductive WalkRd
  | wait | bad (s : State) | ok (key : Nat) (s : State)

/-- The key of the result record (R203): 128-byte aligned, on a readable stack-unit result page in HBM. R203 names no cause for a table
entry that cannot be read on the way: that it counts as RES outside such a page is the model's choice (log 55). -/
def State.resKey (s : State) (part : BitVec 4) (va : Nat) : WalkRd :=
  if va % 128 ≠ 0 ∨ 2 ^ 48 ≤ va ∨ !translated va then .bad s
  else match s.xlat part va with
    | .wait => .wait
    | .leaf l => if l.type = 3 ∧ l.tgt = 0 ∧ l.e.getLsbD 53 ∧ !s.lentOut (l.phys va) then .ok (l.phys va) s else .bad s
    | _ => .bad s

/-- A read of `n` bytes at `va` by the stack that runs the walk (R197, R200, R204). -/
def State.walkRead (s : State) (part : BitVec 4) (stack va n : Nat) : WalkRd :=
  let s' := s.walkedFrom (if stack < 4 then 0 else 1) part [va]
  if va % n ≠ 0 ∨ 2 ^ 48 ≤ va ∨ !translated va then .bad s
  else match s.xlat part va with
    | .wait => .wait
    | .leaf l =>
      let key := l.phys va
      if l.type ≠ 0 ∨ l.tgt ≠ 0 ∨ !l.e.getLsbD 53 ∨ s.lentOut key ∨ stackOf key ≠ stack then .bad s'
      else if s.mustWait (run key n) ∨ (run key n).any (fun j => s.unitMeet j == .wait) then .wait
      else match s.firstMeet .uncorr (run key n) with
        | some b => .bad (s'.reportKey 0x39 b)
        | none => .ok key (s'.reportCorr (run key n))
    | _ => .bad s'

/-- One unit of a stack's budget is drawn. -/
def Hbm.drawUnit (h : Hbm) (k : Nat) : Hbm := { h with budget := h.budget.set (k % 8) (h.left k - 1) (Nat.mod_lt _ (by decide)) }

/-- A read of a walk, which counts as one step. The step beyond the charge draws a unit from the refill, and waits for it (R201). -/
def State.walkGet (s : State) (p : Nat) (k : Cmd) (va n : Nat) : WalkRd :=
  let h := k.run.c.getD 1 0
  let last := decide (k.run.walk.steps = 1022)
  if last ∧ s.hbm.left h = 0 then .wait
  else match s.walkRead (s.core p).seat.part h va n with
    | .ok key s' => .ok key (if last then { s' with hbm := s'.hbm.drawUnit h } else s')
    | r => r

/-- The walk ends with a status and the address that the record carries. -/
def Cmd.walkEnd (k : Cmd) (code va : Nat) : Cmd :=
  { k with run := { k.run with walk := { k.run.walk with status := some (BitVec.ofNat 4 code), ptr := w64 va } } }

/-- A step goes on at a pointer. -/
def Cmd.walkTo (k : Cmd) (va level : Nat) : Cmd :=
  { k with run := { k.run with walk := { k.run.walk with ptr := w64 va, level := level, steps := k.run.walk.steps + 1 } } }

/-- The walk reaches its stack (R199, R201, R204): queue, budget, then the checks of its descriptor. -/
def State.walkAdmit (s : State) (p : Nat) (k : Cmd) : State :=
  let d := k.run.desc
  let res := k.run.c.getD 0 0
  let h := k.run.c.getD 1 0
  let s := s.visit p (.stack h 0)
  if s.hbm.queueFull h then (s.reject res stRejBusy).setCmd p (k.walkEnd stRejBusy 0)
  else if s.hbm.left h < walkCost d then (s.reject res stRejPower).setCmd p (k.walkEnd stRejPower 0)
  else
    let s := { s with hbm := s.hbm.charge h (walkCost d) }
    let k := { k with run := { k.run with walk := { k.run.walk with started := true, ptr := w64 (walkRoot d) } } }
    s.setCmd p (if walkBad d then k.walkEnd stFault 0 else k)

/-- Reads the node at the pointer: found, or on to the next. -/
def State.walkNode (s : State) (p : Nat) (k : Cmd) (any : Bool) : State :=
  let d := k.run.desc
  let w := k.run.walk
  match s.walkGet p k w.ptr.toNat 64 with
  | .wait => s
  | .bad s' => s'.setCmd p (k.walkEnd stFault w.ptr.toNat)
  | .ok key s' =>
    let l := Memory.gets s'.mem key 64
    if any ∨ fieldLE l 0 8 = walkKey d then
      s'.setCmd p (({ k with run := { k.run with buf := (run 0 64).zip l } }.walkTo w.ptr.toNat w.level).walkEnd stOk w.ptr.toNat)
    else s'.setCmd p (k.walkTo (fieldLE l 8 8) w.level)

/-- Reads a pointer of a table. -/
def State.walkTable (s : State) (p : Nat) (k : Cmd) (va : Nat) (stop : Bool) : State :=
  let w := k.run.walk
  match s.walkGet p k va 8 with
  | .wait => s
  | .bad s' => s'.setCmd p (k.walkEnd stFault va)
  | .ok key s' =>
    let v := s'.peek key 8
    let k := k.walkTo v (w.level + 1)
    s'.setCmd p (if stop ∧ v = 0 then k.walkEnd 6 0 else k)

/-- One step of a walk (R204). -/
def State.walkStep (s : State) (p : Nat) (k : Cmd) : State :=
  let d := k.run.desc
  let w := k.run.walk
  let limit := s.setCmd p (k.walkEnd 7 0)
  if walkKind d = 2 then
    if w.steps = walkMaxs d then limit
    else if walkLv d < w.level then s.walkNode p k true
    else
      let ib := walkIb d
      let idx := (walkKey d >>> (ib * (walkLv d - w.level))) % 2 ^ ib
      s.walkTable p k ((w.ptr.toNat + 8 * idx) % 2 ^ 64) true
  else if walkKind d = 1 ∧ w.level = 0 then
    let i := (walkKey d * 0x9E3779B97F4A7C15 % 2 ^ 64) >>> (64 - walkHb d)
    s.walkTable p k ((walkRoot d + 8 * i) % 2 ^ 64) false
  else if w.ptr = 0 then s.setCmd p (k.walkEnd 6 0)
  else if w.steps = walkMaxs d then limit
  else s.walkNode p k false

/-- Bytes of the result record that are written (R205). -/
def walkRecord (k : Cmd) : List Byte :=
  let w := k.run.walk
  let code := match w.status with | some c => c.toNat | none => 0
  let n := if w.started then w.steps else 0
  leBytes 8 (code + n * 2 ^ 16) ++ leBytes 8 w.ptr.toNat ++ List.replicate 48 0 ++ (if code = stOk then k.run.buf.map (·.2) else [])

/-- The result record is written at RES, and the status stands (R205). A chunk of it that cannot be written is reported (R365); for the
found node's the record says FAULT at its address, for the header's nothing is written (log 55). A record in a unit lent out since the
walk started is refused with cause XPERM as a store is (R344, R348, log 59). The chunks written are kept, for the charge (R201). -/
def State.walkWrite (s : State) (p : Nat) (k : Cmd) : State :=
  let key := k.run.c.getD 0 0
  let l := walkRecord k
  let ks := run key l.length
  if ks.any s.lentOut then (s.refusedStore (s.core p).seat.part (w64 (walkRes k.run.desc)) .xperm).settle p k stOk 0
  else if ks.any fun j => s.hbm.chan (stackOf j) (channelOf j) == .retraining || s.unitMeet j == .wait then s
  else match s.writeErr ks with
    | none => ((s.unitRebuilt ks).unitWrite (s.core p).seat.part key l).settle p { k with run := { k.run with arrived := l.length / 64 } } stOk 0
    | some b =>
      let s := s.reportKey 0x39 b
      if b < key + 64 then s.settle p k stOk 0 else s.setCmd p (k.walkEnd stFault (walkRes k.run.desc + 64))

/-- Charge returned at the end of a walk (R201): what its reads, and the chunks of its record that were written, did not use. -/
def walkBack (k : Cmd) : Nat :=
  let w := k.run.walk
  walkCost k.run.desc + (if w.steps = 1023 then 1 else 0) - (w.steps + k.run.arrived)

/-! ### Start, work, completion -/

/-- `walk` starts (R203): its descriptor is read and RES is translated. -/
def State.startWalk (s : State) (p : Nat) (k : Cmd) : State :=
  let part := (s.core p).seat.part
  let go := fun (s : State) => s.startHead p k
  let k := { k with st := .running }
  match s.descRead p k 32 with
  | .error b => ((go s).noteDesc p k b).engFault p k 0 { cause := .memerr, taddr := k.a }
  | .ok (d, s1) =>
    match s1.resKey part (walkRes d) with
    | .wait => s
    | .bad s2 => ((go s2).walked p part [walkRes d]).engFault p k 2 { cause := .engine, tinfo := 2 }
    | .ok key s2 => ((go s2).walked p part [walkRes d]).setCmd p { k with run := { k.run with desc := d, c := [key, stackOf key] } }

/-- `fbind` or `ftick` starts: FSTAT shows BUSY (R217), and an `fbind` to an unbound slot reads its descriptor (R209). -/
def State.startSlot (s : State) (p : Nat) (k : Cmd) : State :=
  let k := { k with st := .running }
  let busy := fun (s : State) => (s.startHead p k).mapSlot p (kSlot k) fun f => { f with code := BitVec.ofNat 3 stBusy, reason := 0 }
  if k.op != .fbind || k.a == 0 || ((s.core p).ctx.slot (kSlot k)).bound.isSome then busy s
  else match s.descRead p k 64 with
    | .error b => ((busy s).noteDesc p k b).settle p k stFault 7
    | .ok (d, s1) => (busy s1).setCmd p { k with run := { k.run with desc := d } }

/-- The head of the BANK queue starts (R240): after the earlier commands of its slot (R209, R215). -/
def State.startBank (s : State) (p : Nat) : State :=
  let c := s.core p
  match c.ctx.engBank.queue with
  | [] => s
  | k :: _ =>
    let blocked := k.op != .walk && c.ctx.engBank.run.any fun r => r.op != .walk && kSlot r == kSlot k
    if !c.mayStart .bank || !k.ready c.ctx || blocked then s
    else if k.op = .walk then s.startWalk p k
    else s.startSlot p k

/-- One unit of work of a started BANK command. -/
def State.bankWork (s : State) (p num i : Nat) : State :=
  let c := s.core p
  match c.ctx.cmd .bank num with
  | none => s
  | some k =>
    if k.st != .running || !c.works .bank || k.run.status.isSome then s
    else match k.op with
      | .fbind => s.bindWork p k
      | .ftick =>
        if !k.run.walk.started then s.tickAdmit p k
        else if (tickCells k).contains i ∧ !k.run.done.contains i then s.tickGranule p k i else s
      | _ =>
        if k.run.walk.status.isSome then s.walkWrite p k
        else if !k.run.walk.started then s.walkAdmit p k
        else s.walkStep p k

/-- FSTAT of a slot takes a status (R217); the sticky bits are gathered where R217 says. -/
def State.setStatus (s : State) (p : Nat) (k : Cmd) (code : BitVec 3) (reason : BitVec 4) (gather : Bool) : State :=
  let r := if gather then s.tickRegion p k else none
  s.mapSlot p (kSlot k) fun f =>
    let f := match r with | some r => f.gather r | none => f
    { f with code := code, reason := reason }

/-- The stripes of a region's backing are sealed, as a clearing `fbind` needs (R240). -/
def State.regionSealed (s : State) (p : Nat) (k : Cmd) : Bool :=
  match s.tickRegion p k with
  | none => true
  | some r => !dClear r.desc || r.cells.all fun c => s.hbm.sealedEntry c.2

/-- Completes a BANK command that is over (R205, R209, R215). -/
def State.completeBank (s : State) (p num : Nat) : State :=
  let c := s.core p
  match c.ctx.cmd .bank num with
  | none => s
  | some k =>
    if k.st != .running || !c.works .bank then s
    else match k.op, k.run.status with
      | .fbind, some (code, reason) =>
        if k.a ≠ 0 ∧ code = 0 ∧ !s.regionSealed p k then s
        else (s.setStatus p k code reason (k.a != 0 && code == 0)).engDone p k
      | .ftick, some (code, reason) => (s.setStatus p k code reason false).engDone p k
      | .ftick, none =>
        if k.run.walk.started ∧ s.tickOver p k then
          let keys := match s.tickRegion p k with
            | some r => (tickCells k).map r.back
            | none => []
          let s := { s with hbm := (stacksOf keys).foldl (fun h i => h.finish i (tickUnused k i)) s.hbm }
          let bad := k.run.arrived != 0
          (s.setStatus p k (if bad then BitVec.ofNat 3 stFault else 0) (if bad then 7 else 0) true).engDone p k
        else s
      | .walk, some _ =>
        let key := k.run.c.getD 0 0
        let h := k.run.c.getD 1 0
        if (run key (walkRecord k).length).any fun j => s.hbm.pending.contains (stripeIdOf j) then s
        else
          let s := if k.run.walk.started then { s with hbm := s.hbm.finish h (walkBack k) } else s
          (s.visit p (.stack h 0)).engDone p k
      | _, _ => s

end Sys2Proof.Machine
end

