-- ==== Sys2Proof/Machine/Late.lean ====
section
/-!
DEFINITION. Late: scalar loads, taps and `amo` words with a destination that are under way while their core runs on (R12, R25, R230):
how one performs, and which registers a word of the core uses, so that it waits for what is under way.
-/

namespace Sys2Proof.Machine

/-! ### What a word uses -/

/-- The general registers that a word reads or writes (R12); an event is no word. -/
def usesOf : Instr → List (BitVec 5)
  | .add o | .sub o | .and o | .or o | .xor o | .andn o | .shl o | .shr o | .sar o | .rotl o | .min o | .max o | .minn o | .maxn o
  | .mul o | .mulh o | .mulhn o | .div o | .divn o | .rem o | .remn o | .addw o | .subw o | .mulw o => [o.d, o.a, o.b]
  | .clz o | .popc o | .sxb o | .sxh o | .sxw o | .zxb o | .zxh o | .zxw o | .jrl o | .wmkGen o => [o.d, o.a]
  | .addi o | .andi o | .ori o | .xori o => [o.d, o.a]
  | .shli o | .shri o | .sari o => [o.d, o.a]
  | .li o | .lsh o => [o.d]
  | .cmp o => [o.a, o.b]
  | .cmpi o => [o.a]
  | .sel o => [o.d, o.a, o.b]
  | .ldB o | .ldBz o | .ldH o | .ldHz o | .ldW o | .ldWz o | .ldD o | .stB o | .stH o | .stW o | .stD o => [o.b, o.r]
  | .sld o | .sst o => [o.r]
  | .fld o => [o.b, o.d]
  | .fld2 o => [o.b, o.d, o.d + 1]
  | .amoAdd o | .amoAnd o | .amoOr o | .amoXor o | .amoMin o | .amoMax o | .amoSwp o | .amoCas o | .amoMinn o | .amoMaxn o =>
    [o.a, o.b, o.d]
  | .barInit o | .barArr o | .barWait o | .barAw o => [o.a]
  | .tokSnap o | .tokWaitv o => [o.a]
  | .wmkInit o | .wmkWait o | .wmkAdd o => [o.a, o.b]
  | .wmkTest o => [o.a, o.b]
  | .call _ => [31]
  | .jr o | .trap o | .tmark o | .vmode o => [o.a]
  | .loop o => [o.a]
  | .mload o | .mswap o | .mcfg o | .mgo o | .mstream o | .mdrain o | .mzero o | .mmode o | .wtab o | .wstream o | .cpy o | .cnest o
  | .cmc o | .cacc o | .cgat o | .csct o | .cstage o | .fbind o | .ftick o | .walk o => [o.a, o.b]
  | .csrr o => [o.d]
  | .csrw o => [o.a]
  | .vtake o => [o.d]
  | .rng d => [d]
  | .vadd o | .vsub o | .vmul o | .vfma o | .vfms o | .vmin o | .vmax o | .vabs o | .vneg o | .vadds o | .vmuls o | .vfmas o | .vrcp o
  | .vrsq o | .vexp2 o | .vlog2 o | .viadd o | .visub o | .vimul o | .vand o | .vor o | .vxor o | .vshl o | .vshr o | .vsar o | .vimin o
  | .vimax o | .viadds o | .vcmp o | .vcmps o | .vsel o | .vmov o | .vbcs o | .viota o | .kop o | .kpop o | .vget o | .vrotr o | .vrotc o
  | .vbcr o | .vbcc o | .vredr o | .vredc o | .vshuf o | .vcvt o | .vpack o | .vunpk o | .vfix o | .vflt o | .vld o | .vst o | .vldb o
  | .vstadd o | .vzero o => [o.s, o.t]
  | _ => []

/-- The registers that the word `i` with guard `g` uses on a core: one whose guard is false uses none (R12). -/
def Core.uses (c : Core) (g : Guard) (i : Instr) : List (BitVec 5) := if c.passes g then usesOf i else []

/-- Registers that a word under way leaves open: its destinations. -/
def Late.dests (l : Late) : List (BitVec 5) :=
  match l.i with
  | .fld o => [o.d]
  | .fld2 o => [o.d, o.d + 1]
  | i => match loadsOf i, amoOf i with
    | some (o, _), _ => [o.r]
    | none, some (_, o) => [o.d]
    | none, none => []

/-- A word that uses these registers waits for this one (R12). -/
def Late.feeds (l : Late) (rs : List (BitVec 5)) : Bool := l.dests.any fun d => d != 0 && rs.contains d

/-! ### Performing -/

/-- The values for the destinations of a word under way, performed at its home now: a wait, a failure, or the values with the state. -/
inductive Back
  | wait | fail | ok (vs : List Word) (s : State)

/-- The request of a word under way to another package (R344, R348). -/
def Late.req (l : Late) : PeerReq :=
  match l.i with
  | .fld o => .tap o.t
  | .fld2 o => .tap o.t
  | i => match amoOf i with
    | some (op, _) => .atomic op l.b l.x
    | none => .read l.n

/-- The cell's value that a read under way takes (R211, R222, R223). -/
def Late.value (l : Late) (t : Cell) : Word :=
  match l.i with
  | .fld o => tapValue t o.t
  | .fld2 o => tapValue t o.t
  | _ => BitVec.ofInt 64 t.y

/-- A read under way performs at its home (R60, R223). The message of one that left this package was accepted when it began. -/
def State.lateRead (s : State) (p : Nat) (l : Late) (f : Cell → Word) (req : PeerReq) : Got :=
  match s.farAddr l.place with
  | some va =>
    let (b, s') := s.ask va (s.core p).seat.part req
    .data (leNat (b.take (answerSize l.n req))) s'
  | none => s.readHome p l.place l.n f req l.tag

/-- A word under way performs at its home: its first value (R60, R190, R223). -/
def State.lateFirst (s : State) (p : Nat) (l : Late) : Got :=
  match amoOf l.i, s.farAddr l.place with
  | some (op, _), none => s.atomicHome p l.place op l.b l.x l.tag
  | _, _ => s.lateRead p l l.value l.req

/-- Its values, after the first: `fld2` takes a second tap (R223). -/
def State.lateRest (s : State) (p : Nat) (l : Late) (x : Nat) : Back :=
  match l.i with
  | .fld2 o =>
    (match s.lateRead p l (tapValue · o.s) (.tap o.s) with
      | .data y s' => .ok [w64 x, w64 y] s'
      | .wait => .wait
      | .fail _ _ _ => .fail)
  | _ => .ok [w64 x] s

/-- A word under way performs at its home. -/
def State.lateHome (s : State) (p : Nat) (l : Late) : Back :=
  match s.lateFirst p l with
  | .data x s' => s'.lateRest p l x
  | .wait => .wait
  | .fail _ _ _ => .fail

/-- A word under way performs in its order, with the words `ls` under way before it (R24 to R27, R191, R230). -/
def State.lateAt (s : State) (p : Nat) (ls : List Late) (l : Late) : Back :=
  let y : Acc := ⟨l.seq, l.cls, l.place, l.n, ls⟩
  if (amoOf l.i).isSome then (if s.atomicMay p y l.sc then s.lateHome p l else .wait)
  else match s.source p y [(l.place, l.n)] with
    | .wait => .wait
    | .from e => s.lateRest p l (s.forwarded e l.place l.n)
    | .none => s.lateHome p l

/-- g[D] of a load from the bytes read (R60). -/
def loadValue : Instr → Word → Word
  | .ldB _ => (sext · 8) | .ldBz _ => (zext · 8) | .ldH _ => (sext · 16) | .ldHz _ => (zext · 16)
  | .ldW _ => (sext · 32) | .ldWz _ => (zext · 32) | _ => id

/-- The destinations take their values. -/
def Core.take (c : Core) (i : Instr) (vs : List Word) : Core :=
  match i with
  | .fld o => c.setG o.d (vs.getD 0 0)
  | .fld2 o => (c.setG o.d (vs.getD 0 0)).setG (o.d + 1) (vs.getD 1 0)
  | _ => match loadsOf i, amoOf i with
    | some (o, _), _ => c.setG o.r (loadValue i (vs.getD 0 0))
    | none, some (_, o) => c.setG o.d (vs.getD 0 0)
    | none, none => c

/-- Word `k` of those under way on a core performs, if it may: its destinations take their values. One whose home has come to refuse it takes
free values; the model has it perform before its home comes to refuse it (log 51). -/
def State.lateGo (s : State) (p k : Nat) : State :=
  let ls := (s.core p).late
  let give := fun (s : State) (l : Late) (vs : List Word) =>
    s.mapCore p fun c => { c.take l.i vs with late := c.late.eraseIdx k }
  match ls[k]? with
  | none => s
  | some l => match s.lateAt p (ls.take k) l with
    | .ok vs s' => give s' l vs
    | .wait => s
    | .fail => give { s with free := s.free + 2 } l [Config.freeWord s.free, Config.freeWord (s.free + 1)]

/-- The words under way on a core that are wanted perform, as far as they may, the oldest first. -/
def State.latesGo (s : State) (p : Nat) (want : Late → Bool) : State :=
  ((s.core p).late.foldl (fun (e : State × Nat) l =>
    if !want l then (e.1, e.2 + 1)
    else
      let s' := e.1.lateGo p e.2
      (s', if (s'.core p).late.length < (e.1.core p).late.length then e.2 else e.2 + 1)) (s, 0)).1

/-- A word that uses these registers is about to run: what it waits for performs, with all under way where it stands behind others. -/
def State.catchUp (s : State) (p : Nat) (rs : List (BitVec 5)) : State :=
  let s := s.latesGo p (·.feeds rs)
  if (s.core p).late.any (·.feeds rs) then s.latesGo p fun _ => true else s

end Sys2Proof.Machine
end

