-- ==== Sys2Proof/Machine/Settle.lean ====
section
/-!
DEFINITION. Settle: which accesses must perform before a step is taken (R232, R234, R297, R348), and how a word that may be under way
begins (R12, R18, R25, R230).
-/

namespace Sys2Proof.Machine

/-! ### What must come first -/

/-- A core stops, or leaves, between two states. -/
def Core.stopped (c d : Core) : Bool :=
  d.trap.isSome || d.phase != c.phase || d.ctx.mode != c.ctx.mode || d.dbg.stopped != c.dbg.stopped || d.preempt != c.preempt ||
  d.seat != c.seat

/-- Between two states a GEN of a waymark (R253) moves among the bytes of a place. -/
def State.genMoves (s t : State) (pl : Place) (n : Nat) : Bool :=
  match s.real pl with
  | .mem k => (run k n).any fun b =>
      isSpad b && decide (8 ≤ b % 16) && decide (b % 16 < 12) && Memory.get s.mem b != Memory.get t.mem b
  | _ => false

/-- The home of a word under way refuses it. -/
def State.lateFails (s : State) (p : Nat) (l : Late) : Bool := match s.lateHome p l with | .fail => true | _ => false

/-- A word under way on core `p` must perform before a change from `s` to `t`: its core stops (R297), its home comes to refuse it, or, with
`gen`, an arrival moves a GEN that it reads, which it then sees with all that has arrived, or not at all (R232, R234). -/
def State.mustLate (s t : State) (gen : Bool) (p : Nat) (l : Late) : Bool :=
  (t.core p).late.contains l &&
    ((s.core p).stopped (t.core p) || (gen && s.genMoves t l.place l.n) || (t.lateFails p l && !s.lateFails p l))

/-- The VU stands at a `vget` that only a `vtake` frees (R18, R126). -/
def Core.vuStuck (c : Core) : Bool :=
  match c.ctx.vu.queue with
  | e :: _ => e.op == some .vget && !e.dropped && decide (16 ≤ c.ctx.vu.fifo.length)
  | [] => false

/-- Accesses of core `p` must perform before a change from `s` to `t`: words under way, and vector loads of a GEN that an arrival moves. A
vector load that cannot perform, `tried`, while the VU stands at a `vget` waits for the program (R18): the arrival does not wait for it, which
is the model's choice (log 51). -/
def State.presses (s t : State) (gen tried : Bool) (p : Nat) : Bool :=
  let c := s.core p
  c.late.any (s.mustLate t gen p) ||
  (gen && c.streams && !(tried && c.vuStuck) && c.ctx.lq.any fun l =>
    !l.dropped && l.fault.isNone && l.pieces.any fun q => !q.done && s.genMoves t q.place q.n)

/-- The same for some core. -/
def State.hurries (s t : State) (gen tried : Bool) : Bool := s.cores.any fun e => s.presses t gen tried e.1

/-- One sweep of a core's accesses: words under way, queued stores, vector loads; `w` carries out each. -/
def State.accesses (s : State) (p : Nat) (w : State → (State → State) → State) : State :=
  let s := w s (·.latesGo p fun _ => true)
  let s := (s.core p).ctx.sq.foldl (fun s e => (List.range e.pieces.length).foldl (fun s j =>
    w (w s (·.perform p e.seq j false)) (·.perform p e.seq j true)) s) s
  (s.core p).ctx.lq.foldl (fun s l => (List.range l.pieces.length).foldl (fun s j => w s (·.loadPiece p l.num j)) s) s

/-- What an access does, unless it stops a core that has words under way, or waits for an access of the device's own. -/
def State.gently (s : State) (f : State → State) : State :=
  let t := f s
  if t.devHeld || s.hurries t false true then s else t

/-- The accesses of a core perform, as far as they may. -/
def State.drain (s : State) (p : Nat) : State :=
  let c := s.core p
  (List.range (c.late.length + c.ctx.sq.length + c.ctx.lq.length + 1)).foldl (fun s _ => s.accesses p State.gently) s

/-- What must perform before the change to `t` performs: words under way alone, if that is enough, and else what stands before it too. -/
def State.rush (s t : State) (gen : Bool) : State :=
  let s := s.cores.foldl (fun s e => if s.presses t gen false e.1 then s.latesGo e.1 fun _ => true else s) s
  s.cores.foldl (fun s e => if s.presses t gen false e.1 then s.drain e.1 else s) s

/-- A step is taken after the accesses that must come first; where one of them cannot perform yet, the step is `held`. -/
def State.settled (s : State) (gen : Bool) (held : State → State) (f : State → Out) : Out :=
  match f s with
  | .next t =>
    if !s.hurries t gen false then .next t
    else
      let s1 := s.rush t gen
      (match f s1 with
        | .next u => .next (if s1.hurries u gen true then held s1 else u)
        | o => o)
  | o => o

/-- What a step of the package's own does, after the accesses that must come first, unless it must wait. -/
def State.calm (s : State) (gen : Bool) (f : State → Out) : State :=
  match s.settled gen id f with
  | .next t => if t.devHeld then s else t
  | _ => s

/-! ### How a word begins -/

/-- What a word that may be under way does: its guard, the registers that it reads, its class, address and size, the kind of its access,
and, for an atomic, its scope. -/
structure Under where
  guard : Guard
  reads : List Bad
  cls : BitVec 4
  ea : Word
  n : Nat
  kind : AKind
  sc : Option (BitVec 2)

/-- The word at the PC, if it is one that may be under way. -/
def Core.under (c : Core) (i : Instr) : Option Under :=
  match i with
  | .fld o => some ⟨o.toGuard, [bg o.b], o.c, c.rg o.b, 4, { rd := true, win := true }, none⟩
  | .fld2 o => some ⟨o.toGuard, [bg o.b], o.c, c.rg o.b, 4, { rd := true, win := true }, none⟩
  | _ => match loadsOf i, amoOf i with
    | some (o, n), _ => some ⟨o.toGuard, [bg o.b], o.c, effAddr (c.rg o.b) o.o n, n, { rd := true, s8 := n == 8, win := n == 4 }, none⟩
    | none, some (op, o) =>
      if o.d = 0 then none
      else some ⟨o.toGuard, [bg o.a, bg o.b] ++ (if op = 7 then [bg o.d] else []), o.c, c.rg o.a, 8, { rd := true, wr := true }, some o.s⟩
    | none, none => none

/-- The place of a word that may be under way, if its checks pass. -/
def State.underPlace (s : State) (p : Nat) (i : Instr) (u : Under) : Option Place :=
  let tap := match i with | .fld _ | .fld2 _ => true | _ => false
  match (if tap then s.checkTap p u.ea else s.checkScalar p u.kind u.ea u.n) with
  | .ok pl => some pl
  | .error _ => none

/-- The load, tap or atomic `i` at the PC of core `p` begins, and the core runs on (R12, R25, R230): its checks pass, its home does not refuse it,
and nothing stands before it that waits for the VU (R18). -/
def State.sendWord (s : State) (p : Nat) (i : Instr) : Option State :=
  let c := s.core p
  match c.under i with
  | none => none
  | some u =>
    let bytes := run u.ea.toNat u.n
    if !c.passes u.guard || c.bad.contains .p || u.reads.any c.bad.contains || (c.watchAt true u.kind.wr bytes).isSome ||
        c.late.any (·.feeds (usesOf i)) || (p == Config.colophon && (loadsOf i).isNone) || c.meetsLoops (c.ctx.pc + 4) then none
    else match s.underPlace p i u with
      | none => none
      | some pl =>
        let s := s.walked p c.seat.part bytes
        let sc := match u.sc with | some sc => atomicScope sc pl | none => 0
        let (b, x) := match amoOf i with | some (_, o) => (c.rg o.b, c.rg o.d) | none => (0, 0)
        let l : Late := ⟨i, c.ctx.seq, u.cls, pl, u.ea, u.n, sc, b, x, 0, c.loopTag u.guard⟩
        let far := (s.farAddr pl).isSome
        if far && (s.farCause pl l.req).isSome then none
        else
          let s := { s with free := if far then s.free + 1 else s.free }
          let d := s.drain p
          match d.lateAt p (d.core p).late l with
          | .ok _ _ => if s.lateFails p l then none else some (s.mapCore p fun c =>
              let c := match i with
                | .fld o => if o.u ≠ 0 then c.warn wTap else c
                | .fld2 o => if o.u ≠ 0 ∨ o.d + 1 = 0 then c.warn wTap else c
                | _ => c
              let c := if u.sc.isSome then c.fenced (1 <<< u.cls.toNat) else c
              ({ c with late := c.late ++ [l] } : Core).advance)
          | _ => none

end Sys2Proof.Machine
end

