-- ==== Sys2Proof/Machine/System.lean ====
section
/-!
DEFINITION. System: the CSR words (R15 to R17, R72, R73, R217, R291, R308, R318, R327), the system words (R74 to R81, R303) and
the vector control words (R140 to R143).
-/

namespace Sys2Proof.Machine

/-! ### Control and status registers -/

/-- Access in TASK mode (R15): none, read-only, or written by its access codes. -/
inductive CsrMode | none | ro | rw
  deriving DecidableEq, Repr

/-- The CSR table of R15; a number outside it is no CSR. -/
def csrMode (n : Nat) : Option CsrMode :=
  if n ≤ 4 ∨ n = 8 ∨ n = 0x20 ∨ (0x30 ≤ n ∧ n < 0x44 ) then some .ro
  else if 9 ≤ n ∧ n ≤ 0xB ∨ (0x50 ≤ n ∧ n < 0x60) then some .rw
  else if (0x10 ≤ n ∧ n < 0x16) ∨ (0x18 ≤ n ∧ n < 0x1F) ∨ n = 0x70 ∨ (0x80 ≤ n ∧ n < 0x88) then some .none
  else Option.none

/-- CID (R16). The colophon has no PHYS; that it reads as 640 there is the model's choice (log 47). -/
def cid (p : Nat) (t : Seat) : Word := w64 (p % 1024 * 2 ^ 16 + t.vy * 2 ^ 5 + t.vx)
/-- RECT (R173). -/
def rect (t : Seat) : Word := w64 (t.lw + t.lh * 2 ^ 4 + t.prio.toNat * 2 ^ 8)

/-- FSTATn (R217). -/
def FSlot.stat (f : FSlot) : Word :=
  w64 (f.code.toNat + (if f.bound.isSome then 2 ^ 7 else 0) + (if f.sat then 2 ^ 8 else 0) + (if f.ovf then 2 ^ 9 else 0) +
    f.reason.toNat * 2 ^ 12)

/-- A CSR of the running core as read. -/
def State.csr (s : State) (c : Core) (n : Nat) : Word :=
  let x := c.ctx
  if n = 0 then cid s.cur c.seat
  else if n = 1 then rect c.seat
  else if n = 2 then c.seat.part.setWidth 64
  else if n = 3 then x.args
  else if n = 4 then x.tcb
  else if n = 8 then w64 x.mode.code
  else if n = 9 then x.warn.setWidth 64
  else if n = 0xA then x.vufl.setWidth 64
  else if n = 0xB then c.mefl.setWidth 64
  else if n = 0x10 then x.tcause
  else if n = 0x11 then x.tpc
  else if n = 0x12 then x.tinfo
  else if n = 0x13 then x.taddr
  else if n = 0x14 then x.tvec
  else if n = 0x15 then x.tsave
  else if 0x18 ≤ n ∧ n < 0x1F then x.cut[(n - 0x18) % 7]'(Nat.mod_lt _ (by decide))
  else if n = 0x20 then w64 (s.time[dieOf s.cur % 2]'(Nat.mod_lt _ (by decide)))
  else if 0x30 ≤ n ∧ n < 0x38 then x.mp[(n - 0x30) % 8]'(Nat.mod_lt _ (by decide))
  else if 0x38 ≤ n ∧ n < 0x40 then x.ceid[(n - 0x38) % 8]'(Nat.mod_lt _ (by decide))
  else if 0x40 ≤ n ∧ n < 0x44 then (x.loop (BitVec.ofNat 2 (n - 0x40))).lstat
  else if 0x50 ≤ n ∧ n < 0x60 then (x.fslots[(n - 0x50) % 16]'(Nat.mod_lt _ (by decide))).stat
  else if n = 0x70 then c.prqRead
  else if 0x80 ≤ n ∧ n < 0x84 then c.bpa[(n - 0x80) % 4]'(Nat.mod_lt _ (by decide))
  else if 0x84 ≤ n ∧ n < 0x88 then c.wpa[(n - 0x84) % 4]'(Nat.mod_lt _ (by decide))
  else 0

/-- The fields of an active loop engine replaced (R72); an idle engine ignores the write. -/
def Loop.written (l : Loop) (v : Word) : Loop :=
  if l.len = 0 then l
  else { l with
    act := v.getLsbD 63
    stg := BitVec.ofNat 3 (wbits v 62 60)
    iter := BitVec.ofNat 29 (wbits v 56 28)
    count := BitVec.ofNat 28 (wbits v 27 0) }

/-- A write of FSTATn (R217): a 1 clears the bit in the FSTAT and at every home of the slot's region. -/
def State.fstatWrite (s : State) (c : Core) (i : Nat) (v : Word) : State :=
  let f := c.ctx.fslots[i % 16]'(Nat.mod_lt _ (by decide))
  let f' := { f with sat := f.sat && !v.getLsbD 8, ovf := f.ovf && !v.getLsbD 9 }
  let s := s.setCore s.cur { c with ctx := { c.ctx with fslots := c.ctx.fslots.set (i % 16) f' (Nat.mod_lt _ (by decide)) } }
  { s with regions := s.regions.map fun r =>
      if r.part == c.seat.part && f.bound == some r.win then
        ({ r with sat := if v.getLsbD 8 then [] else r.sat, ovf := if v.getLsbD 9 then [] else r.ovf } : Region)
      else r }

/-- A CSR write by the access codes of its fields (R8, R15). -/
def State.csrWrite (s : State) (c : Core) (n : Nat) (v : Word) : State :=
  let x := c.ctx
  let put := fun (y : Ctx) => s.setCore s.cur { c with ctx := y }
  if n = 3 then put { x with args := v }
  else if n = 4 then put { x with tcb := v }
  else if n = 9 then put { x with warn := x.warn &&& ~~~(v.setWidth 8) }
  else if n = 0xA then put { x with vufl := x.vufl &&& ~~~(v.setWidth 7) }
  else if n = 0xB then s.setCore s.cur { c with mefl := c.mefl &&& ~~~(v.setWidth 5) }
  else if n = 0x10 then put { x with tcause := v &&& 0x170FF }
  else if n = 0x11 then put { x with tpc := v &&& 0xFFFFFFFFFFFC }
  else if n = 0x12 then put { x with tinfo := v }
  else if n = 0x13 then put { x with taddr := v }
  else if n = 0x14 then put { x with tvec := v &&& 0xFFFFFFFFFFFC }
  else if n = 0x15 then put { x with tsave := v }
  else if 0x18 ≤ n ∧ n < 0x1F then put { x with cut := x.cut.set ((n - 0x18) % 7) v (Nat.mod_lt _ (by decide)) }
  else if 0x40 ≤ n ∧ n < 0x44 then
    let i := BitVec.ofNat 2 (n - 0x40)
    put (x.setLoop i ((x.loop i).written v))
  else if 0x50 ≤ n ∧ n < 0x60 then s.fstatWrite c (n - 0x50) v
  else if n = 0x70 then s.setCore s.cur (c.prqWrite v)
  else if 0x80 ≤ n ∧ n < 0x84 then
    s.setCore s.cur { c with bpa := c.bpa.set ((n - 0x80) % 4) (v &&& 0x8000FFFFFFFFFFFC) (Nat.mod_lt _ (by decide)) }
  else if 0x84 ≤ n ∧ n < 0x88 then
    s.setCore s.cur { c with wpa := c.wpa.set ((n - 0x84) % 4) (v &&& 0xEF00FFFFFFFFFFF8) (Nat.mod_lt _ (by decide)) }
  else s

/-- R15, R73: `csrr`. -/
def execCsrr (o : OpDC) (s : State) : Out :=
  word o.toGuard (if 0x40 ≤ o.c.toNat ∧ o.c.toNat < 0x44 then [.loops] else []) (fun s c =>
    match csrMode o.c.toNat with
    | none => .trap { cause := .illegal }
    | some m =>
      if m = .none ∧ !c.sys then .trap { cause := .priv }
      else s.okCore (c.setG o.d (s.csr c o.c.toNat))) s

/-- R15, R73: `csrw`. -/
def execCsrw (o : OpAC) (s : State) : Out :=
  word o.toGuard [] (fun s c =>
    match csrMode o.c.toNat with
    | none => .trap { cause := .illegal }
    | some m =>
      if m ≠ .rw ∧ !c.sys then .trap { cause := .priv }
      else s.reading c o.toGuard [bg o.a] (.ok (s.csrWrite c o.c.toNat (c.rg o.a)))) s

/-! ### System words -/

/-- R74: `nop`. -/
def execNop (o : Guard) (s : State) : Out := word o [] (fun s c => s.okCore c) s

/-- R75, R295: `halt`. In TASK mode the core begins its waits and stays at the word; the loops end. In SYSTEM mode it halts as
R295 states, and the task faults. -/
def execHalt (o : Guard) (s : State) : Out :=
  let c := s.core s.cur
  if c.bad.contains .p ∧ o.g ≠ 0 then .next (s.raiseBad o)
  else if !c.passes o then s.skip o
  else if c.sys then .next (s.haltSystem s.cur none)
  else .next (s.setCore s.cur { c with
    phase := .halting
    stalled := false
    ctx := { c.ctx with loops := Vector.replicate 4 Loop.idle, order := [] } })

/-- R76: `trap`. TPC is the address of the word that the sequencer would execute next (R294). -/
def execTrap (o : OpA) (s : State) : Out :=
  let c := s.core s.cur
  if c.bad.contains .p ∧ o.g ≠ 0 then .next (s.raiseBad o.toGuard)
  else if !c.passes o.toGuard then s.skip o.toGuard
  else if c.bad.contains (bg o.a) || (!c.sys && c.meetsLoops (c.ctx.pc + 4)) then .next (s.raiseBad o.toGuard)
  else
    let t := s.trapOf o.toGuard { cause := .trapi, tinfo := c.rg o.a }
    .next ((if c.sys then s else s.setCore s.cur c.advance).raise s.cur t)

/-- R77, R303: `eret`. It waits until every access made since trap entry has performed. The colophon stays in SYSTEM mode
(R358). -/
def execEret (o : Guard) (s : State) : Out :=
  let c := s.core s.cur
  if c.bad.contains .p ∧ o.g ≠ 0 then .next (s.raiseBad o)
  else if !c.passes o then s.skip o
  else if !c.sys then .next (s.raise s.cur (s.trapOf o { cause := .priv }))
  else if c.ctx.sq.any fun e => decide (c.ctx.tseq ≤ e.seq) then .next (s.setCore s.cur { c with stalled := true })
  else if s.cur = Config.colophon then
    let x := { c.ctx with pc := c.ctx.tpc.setWidth 48, words := c.ctx.words + 1 }
    .next ((s.setCore s.cur { c with stalled := false, ctx := x }).emitCore s.cur .sq 0x04 (c.loopTag o) (x.tpc.toNat / 4))
  else .next (s.leaveTrap s.cur (c.loopTag o))

/-- R78: `brk`, a BREAK trap, or a debug stop while a debugger has claimed the core (R329, R330). -/
def execBrk (o : Guard) (s : State) : Out :=
  word o [] (fun s c =>
    if !c.dbg.claim then .trap { cause := .brk }
    else
      let c' := if c.dbg.want.isSome then c else { c with dbg := { c.dbg with want := some (4, 0), armed := false, atIter := false } }
      if c.ctx.pipelined then s.okCore c' else .hold (s.setCore s.cur c')) s

/-- R79: `ifence`. -/
def execIfence (o : Guard) (s : State) : Out := word o [] (fun s c => s.okCore { c with icache := [] }) s

/-- R80: `tmark`. -/
def execTmark (o : OpA) (s : State) : Out :=
  word o.toGuard [bg o.a] (fun s c =>
    .ok (s.emitCore s.cur .sq 0x01 (c.loopTag o.toGuard) (wbits (c.rg o.a) 36 0))) s

/-- R81: `yield`. A pending request of PRQ is taken at the next boundary, with TPC after the word; inside a pipelined loop, too,
the word offers the boundary (R308). -/
def execYield (o : Guard) (s : State) : Out :=
  let c := s.core s.cur
  if c.bad.contains .p ∧ o.g ≠ 0 then .next (s.raiseBad o)
  else if !c.passes o then s.skip o
  else
    let s' := s.setCore s.cur c.advance
    s.onTo o (c.ctx.pc + 4) (if !c.sys ∧ (c.prqReq ∨ c.prqSched) ∧ s.cur ≠ Config.colophon then s'.takeRequest s.cur else s')

/-! ### Vector control words -/

/-- The VU still has vector words to issue (R140); a mode entry is none. -/
def Ctx.vuWaits (x : Ctx) : Bool := x.vu.queue.any (·.op.isSome)

/-- Some bound of an issued word has not passed. -/
def Vu.landing (u : Vu) : Bool :=
  u.vwin.toList.any (fun w => decide (u.slot < w.due)) || u.kwin.toList.any (fun w => decide (u.slot < w.due))

/-- R140: `vfence`. Once it completes, every result is written. -/
def execVfence (o : Guard) (s : State) : Out :=
  queueWord o [] (fun s c => if c.ctx.vuWaits then .stall else s.okCore { c with ctx := c.ctx.writeBack }) s

/-- R141: `vbusy`. Whether the bounds of issued words have passed is the VU's timing. -/
def execVbusy (o : OpP) (s : State) : Out :=
  queueWord o.toGuard [] (fun s c =>
    if c.ctx.vuWaits then s.okCore (c.setP o.p true)
    else if c.ctx.vu.landing ∧ Config.freeBit s.free then .ok ({ s with free := s.free + 1 }.setCore s.cur (c.setP o.p true))
    else .ok ({ s with free := s.free + 1 }.setCore s.cur { c.setP o.p false with ctx := (c.setP o.p false).ctx.writeBack })) s

/-- R142: `vmode`. -/
def execVmode (o : OpA) (s : State) : Out :=
  queueWord o.toGuard [bg o.a] (fun s c =>
    if vuDepth ≤ c.ctx.vu.queue.length then .stall
    else s.okCore { c with ctx := c.ctx.pushVu ⟨0, none, ⟨0, 0, 0, 0, 0, 0⟩, c.rg o.a, 0, none, none, false, c.loopTag o.toGuard⟩ }) s

/-- R143: `vtake`. -/
def execVtake (o : OpD) (s : State) : Out :=
  queueWord o.toGuard [] (fun s c =>
    match c.ctx.vu.fifo with
    | e :: t => s.okCore ({ c with ctx := { c.ctx with vu := { c.ctx.vu with fifo := t } } }.setG o.d (e.setWidth 64))
    | [] =>
      if c.ctx.vu.queue.any (fun v => v.op == some .vget && !v.dropped) then .stall
      else .trap { cause := .engine, tinfo := 1 }) s

end Sys2Proof.Machine
end

