-- ==== Sys2Proof/Machine/Act.lean ====
section
/-!
DEFINITION. Act: ENGINE_COMMAND_START and ENGINE_COMMAND_COMPLETE (R240, R241), and the actions of the agenda that are no
instructions: units of engine work, data read ahead, TIME and core cycles passing (R176, R318, R333, R334), the instruction
cache (R13) and held translations (R185), budgets refilling (R201), errors arising (R189, R196, R306); and one sweep of a
core's pending work.
-/

namespace Sys2Proof.Machine

/-! ### Engine events -/

/-- R240: ENGINE_COMMAND_START. -/
def execEngineCommandStart (core : Nat) (q : EngQ) (s : State) : Out :=
  onCore core (fun s => match q with
    | .me => s.startMe core
    | .ws => s.startWs core
    | .ce => s.startCe core
    | .bank => s.startBank core) s

/-- R241: ENGINE_COMMAND_COMPLETE. A WS command completes with its latch. -/
def execEngineCommandComplete (core : Nat) (q : EngQ) (num : Nat) (s : State) : Out :=
  onCore core (fun s => match q with
    | .me => s.completeMe core num
    | .ws => s
    | .ce => s.completeCe core num
    | .bank => s.completeBank core num) s

/-- One unit of work of a started command. -/
def State.work (s : State) (p : Nat) (q : EngQ) (num i : Nat) : State :=
  match q with
  | .me => s.meWork p num i
  | .ws => s.wsWork p num
  | .ce => s.copyWork p num i
  | .bank => s.bankWork p num i

/-- A started command may read `n` bytes at `a`: a part of its own record, table, stream or activation rows (R272, R287, R288), or an
aligned word of its mask or of a source that it has not copied (R248, R257). It reads nothing else (R290). -/
def State.sourceOf (s : State) (p : Nat) (k : Cmd) (a n : Nat) : Bool :=
  let c := s.core p
  let within := fun (lo size : Nat) => decide (lo ≤ a) && decide (a + n ≤ lo + size)
  let sp := c.ctx.me.active.sp
  let row := rowBytes sp (kFmt k) (kSc k)
  let byte := n == 1 || (n == 4 && a % 4 == 0)
  match k.op with
  | .mload => byte && within k.a.toNat (recordSize (kFmt k) (kSc k) (kSp k))
  | .mgo | .mstream => byte && k.run.status.isSome && (run k.run.pos (streamLen k - k.run.pos)).any fun i =>
      let ar := (waveAt k sp i).1
      ar % 4 == 0 && inSelf c.seat ar row && within ar row
  | .wtab => byte && within k.a.toNat 256
  | .wstream => byte && within k.a.toNat (wbits k.b 39 20) && decide (a + n ≤ 2 ^ 48) && translated a
  | .cgat | .csct =>
    n == 4 && a % 4 == 0 && k.run.status.isSome &&
      (if k.geometry then k.left.any fun w => (k.ends w).1 == a
       else decide (cAux k.run.desc / 4 * 4 ≤ a) && decide (a < cAux k.run.desc + (cRows k.run.desc + 7) / 8))
  | .cpy | .cnest | .cmc => n == 4 && a % 4 == 0 && k.run.status.isSome && k.left.any fun w => (k.ends w).1 == a
  | _ => false

/-- A running command reads memory ahead of the unit that uses it (R234, R272, R288); a `cmc` only into its slot (R255). -/
def State.prefetch (s : State) (p : Nat) (q : EngQ) (num : Nat) (va : Word) (n : Nat) : State :=
  let c := s.core p
  match c.ctx.cmd q num with
  | none => s
  | some k =>
    let a := va.toNat
    let slotless := k.op == .cmc && k.run.parked.isNone
    if k.st != .running || slotless || !c.works q || !s.sourceOf p k a n || (k.run.ahead a n).isSome then s
    else match (if q == .ce then s.copyRead p k a else s.engPiece p k a n) with
      | .ok l s' =>
        let k := { k with run := { k.run with buf := k.run.buf.filter (fun b => b.1 < a || a + n ≤ b.1) ++ (run a n).zip l } }
        s'.setCmd p (if q == .ce then s'.shareCell p k a l else k)
      | _ => s

/-! ### Time and cycles -/

/-- A core of the task stands in a debug stop: no budget time accrues (R331). -/
def State.heldTask (s : State) (t : Task) : Bool := t.cores.any fun p => (s.core p).dbg.stopped && (s.core p).seat.tcb == t.tcb

/-- TIME passes on both dies by up to `n` ticks; it stops where TIME[39:0] is 0, so that SYNC carries that TIME (R322). RUNNING tasks
accrue budget time (R176). -/
def State.tick (s : State) (n : Nat) : State :=
  let room := fun (t : Nat) => 2 ^ 40 - t % 2 ^ 40
  let n := min n (min (room s.time[0]) (room s.time[1]))
  let accrue := fun (t : Task) => if t.st = .running ∧ s.heldTask t = false then ({ t with ran := t.ran + n } : Task) else t
  let s1 := (s.timeTo 0 (s.time[0] + n)).timeTo 1 (s.time[1] + n)
  { s1 with parts := s.parts.map fun (q : Part) => ({ q with tasks := q.tasks.map accrue } : Part) }

/-- Head classes (R333). -/
inductive Head
  | issuing | flagTok (i : Nat) | flagBar (i : Nat) | flagWmk (h : Nat) | busy | empty
  deriving DecidableEq, Repr

/-- The waymark counter of an address (R334). -/
def wmkHash (a : Nat) : Nat := bits a 8 4 ^^^ bits a 13 9 ^^^ bits a 18 14 ^^^ bits a 23 19

/-- The head of the sequencer; `go` says that a word executes in this cycle. A `wmk.wait` that earlier accesses hold waits on no flag. -/
def State.seqHead (s : State) (p : Nat) (go : Bool) : Head :=
  let c := s.core p
  match c.phase with
  | .free | .halted => .empty
  | .halting => .busy
  | .running =>
    if !s.canRun p then .busy
    else if !c.stalled then (if go then .issuing else .busy)
    else match (s.wordAt p).map decode with
      | some (.ok i) =>
        (match i with
          | .tokWait o => .flagTok o.i.toNat
          | .tokWaitv o => .flagTok o.i.toNat
          | .barArr o => .flagBar o.i.toNat
          | .barWait o => .flagBar o.i.toNat
          | .barAw o => .flagBar o.i.toNat
          | .wmkWait o =>
            (match checkQuire p c.seat (c.rg o.a).toNat 16 with
              | .ok pl => if s.atomicFree p 0 1 pl 16 then .flagWmk (wmkHash (c.rg o.a).toNat) else .busy
              | _ => .busy)
          | _ => .busy)
      | _ => .busy

/-- The head of an engine queue; `go` says that it starts, or that a started command makes progress, in this cycle, where the queue may. -/
def Core.engHead (c : Core) (q : EngQ) (go : Bool) : Head :=
  let e := c.ctx.eng q
  let starts := match e.queue with | k :: _ => c.mayStart q && k.ready c.ctx | [] => false
  if go && ((c.works q && e.run.any (·.st == .running)) || starts) then .issuing
  else match e.queue with
    | [] => if e.run.isEmpty && e.released.isEmpty then .empty else .busy
    | k :: _ =>
      match k.snaps.find? fun t => !(c.ctx.token t.1).satisfied t.2 with
      | some t => .flagTok t.1.toNat
      | none => .busy

/-- Counts `n` cycles of a head of queue `q` (R333, R334). -/
def Prof.count (f : Prof) (q n : Nat) (h : Head) : Prof :=
  let cls := match h with
    | .issuing => 0
    | .flagTok _ | .flagBar _ | .flagWmk _ => 1
    | .busy => 2
    | .empty => 3
  let up := fun (m : Nat) (v : Vector (BitVec 48) m) (i : Nat) => if h : i < m then v.set i (v[i] + BitVec.ofNat 48 n) else v
  let f := { f with cls := up 28 f.cls (4 * q + cls) }
  match h with
  | .flagTok i => { f with tok := up 63 f.tok i }
  | .flagBar i => { f with bar := up 96 f.bar i }
  | .flagWmk i => { f with wmk := up 32 f.wmk i }
  | _ => f

/-- `n` core cycles pass at a core: the heads of its seven queues are classified (R333). Whether a head that waits on no flag, and that
SYSTEM mode, a trace stall and a stop leave free, issues or waits in a cycle is its timing: a free value. -/
def State.cycles (s : State) (p n : Nat) : State :=
  let c := s.core p
  let x := c.ctx
  let go := fun i => Config.freeBit (s.free + i)
  let hd := fun (live free : Bool) (i : Nat) => if !live then Head.empty else if free && go i then .issuing else .busy
  let own := c.sys && x.sq.any fun e => decide (x.tseq ≤ e.seq)
  let heads := [s.seqHead p (go 0), hd (!(x.lq.isEmpty && x.sq.isEmpty)) (c.streams || own) 1,
    hd (!x.vu.queue.isEmpty) (c.streams && !c.traceFull .vu) 2,
    c.engHead .me (go 3), c.engHead .ws (go 4), c.engHead .ce (go 5), c.engHead .bank (go 6)]
  let f := (heads.zipIdx).foldl (fun (f : Prof) e => f.count e.2 n e.1) c.prof
  if c.prof.en then { s.setCore p { c with prof := f } with free := s.free + 7 } else s

/-! ### Caches, budgets, errors -/

/-- The instruction cache holds 32 KiB: 1,024 blocks (R9). -/
def icacheBlocks : Nat := 1024

/-- The block of `va` is taken into the instruction cache (R13), if it has room and a fetch of it would succeed. -/
def State.icacheFill (s : State) (p : Nat) (va : Word) : State :=
  let c := s.core p
  let a := va.toNat / 32 * 32
  if icacheBlocks ≤ c.icache.length then s
  else match s.check p { rd := false, ex := true } a 4 with
    | .ok (.mem k) =>
      let blk := k / 32 * 32
      if (look c.icache blk).isSome || (run blk 32).any (fun j => s.meet j == .wait || s.meet j == .uncorr) then s
      else (s.setCore p { c with icache := put c.icache blk (Memory.gets s.mem blk 32) }).fetched p a (run blk 32) LoopTag.none
    | .ok (.lease e off) =>
      let blk := leaseBlock e off
      if (look c.icache blk).isSome then s
      else match s.remote p (.lease e (off / 32 * 32)) (.read 32) with
        | .done l s' => s'.mapCore p fun c => { c with icache := put c.icache blk l }
        | _ => s
    | _ => s

/-- A translation is held (R185) after its walk, which reports the corrected errors of the table entries (R196). The walker of a partition is
taken to stand on CD0 (log 58). -/
def State.tlbFill (s : State) (part : BitVec 4) (va : Word) : State :=
  let q := s.part part
  let a := va.toNat
  if 2 ^ 48 ≤ a ∨ !translated a then s
  else match s.xlat part a with
    | .leaf l => if q.tlb.any (fun t => t.1 == a / 2 ^ t.2.1) then s
      else
        let s := s.walkedFrom 0 part [a]
        s.setPart part { s.part part with tlb := (a / 2 ^ l.sh, l.sh, l.e) :: (s.part part).tlb }
    | _ => s

/-- An error arises; g0 is no memory. A held instruction block with an error is dropped, to be fetched again (R306), and a
corrected single-bit error is only reported (R283, R306): `sq`, `vu` and `sys` meet one in a register file, the spill memory, the instruction
cache or the shadow storage, `me` in the accumulator store, `ce` in the lay-by (R368). -/
def State.upset (s : State) (u : Upset) : State :=
  match u with
  | .word w hard => if hard then { s with memBad := w :: s.memBad } else { s with memSoft := w :: s.memSoft }
  | .chunk id => { s with hbm := { s.hbm with crcBad := id :: s.hbm.crcBad } }
  | .tile qn slot dw =>
    let mark := fun (t : Tile) => if t.quire = qn ∧ t.slot = slot then ({ t with bad := dw % 512 :: t.bad } : Tile) else t
    { s with tiles := s.tiles.map mark }
  | .acc p row dw => s.mapCore p fun c => { c with accBad := (row % 1024 * 64 + dw % 64) :: c.accBad }
  | .core p b => if b = .g 0 then s else s.mapCore p fun c => { c with bad := b :: c.bad }
  | .icache p key =>
    if (look (s.core p).icache key).isNone then s
    else s.memEvent ((s.ownerOf p).getD 0) p .sq 0x38 0 |>.mapCore p fun c => { c with icache := c.icache.filter (·.1 != key) }
  | .soft p u pay =>
    let own := fun (q : Nat) => (s.ownerOf q).getD 0
    match u with
    | .sq | .vu | .sys => s.memEvent (own p) p u 0x38 0
    | .me => s.memEvent (own p) p .me 0x38 (pay % 2 ^ 16)
    | .ce => s.memEvent (own (quireNo p)) (quireNo p) .ce 0x38 (pay % 2 ^ 13)
    | _ => s

/-! ### A sweep of pending work -/

/-- The next unit of a started command, and its completion. -/
def State.pushCmd (s : State) (p : Nat) (k : Cmd) : State :=
  let q := opQueue k.op
  let i := match k.op with
    | .ftick => ((tickCells k).find? fun j => !k.run.done.contains j).getD 0
    | _ => if isTransfer k.op then k.left.headD 0 else 0
  let s := s.calm false (execParking p k.num)
  let s := s.calm false (execTileDrain p k.num)
  let s := s.calm false fun s => .next (s.work p q k.num i)
  let s := s.calm true (execWaymarkArrival p k.num k.owed)
  s.calm false (execEngineCommandComplete p q k.num)

/-- One sweep of a core's pending work: words under way, queued stores, loads, the VU, what the engines have started, the heads of their queues,
and what a stop or a halt waits for. -/
def State.sweep (s : State) (p : Nat) : State :=
  let go := fun (s : State) (f : State → State) => s.calm false fun s => .next (f s)
  let s := s.accesses p go
  let s := go s fun s => (s.vuIssue p 0).loadFault p
  let s := [EngQ.me, .ws, .ce, .bank].foldl (fun s q =>
    let s := ((s.core p).ctx.eng q).run.foldl (fun s k => s.pushCmd p k) s
    s.calm false (execEngineCommandStart p q)) s
  let s := s.calm false (execTrapEntry p)
  let s := s.calm false (execCoreIdle p)
  let s := s.calm false (execDebugStop p)
  let s := s.calm false (execSwap p)
  [TrUnit.sq, .vu, .me, .ce, .ws, .bank, .sys].foldl (fun s u =>
    let s := s.flushTrace p u
    s.calm false (execStall p u (s.stallTicks p u))) s

/-- One sweep of the scheduler (R171 to R176, R307, R312, R341), of invalidations (R185), of seals (R200) and of the trace
sinks (R322, R325). -/
def State.sweepAll (s : State) : State :=
  let s := (List.range 16).foldl (fun s i =>
    let n : BitVec 4 := BitVec.ofNat 4 i
    let s := s.calm false (execCompletionEntry n)
    let s := s.calm false (execAdmission n)
    let s := (s.part n).tasks.foldl (fun s t => s.calm false (execHang n t.tcb)) s
    let s := (s.part n).tasks.foldl (fun s t => s.calm false (execRetirement n t.tcb)) s
    let s := (s.part n).tasks.foldl (fun s t => s.calm false (execTaskResume n t.tcb)) s
    let s := s.calm false (execTaskStart n)
    let s := (s.calm false (execPreemption n)).releaseCores n
    if (s.part n).tlbGo then s.calm false (execInvalidationComplete n) else s) s
  let s := s.hbm.pending.foldl (fun s i => s.calm false (execSeal i)) s
  ((List.range 17).foldl (fun s i => (s.calm false (execSync i)).calm false (execDrop i)) s).sinksGo

end Sys2Proof.Machine
end

