-- ==== Sys2Proof/Machine/Branch.lean ====
section
/-!
DEFINITION. Branch: branches, calls and jumps (R64, R65) and the loop words (R66 to R71).
-/

namespace Sys2Proof.Machine

/-- The target of a format B word (R64). -/
def branchTarget (pc : BitVec 48) (o : BitVec 21) : BitVec 48 := pc + 4 * o.signExtend 48

/-- R64: PC := PC + 4 × sext(OFF21, 21). -/
def execBr (o : OpB) (s : State) : Out :=
  word o.toGuard [] (fun s c => .to s (branchTarget c.ctx.pc o.o)) s
/-- R64: the same, with g[31] := zext(PC + 4, 48). -/
def execCall (o : OpB) (s : State) : Out :=
  word o.toGuard [] (fun s c =>
    .jump (s.setCore s.cur (c.setG 31 ((c.ctx.pc + 4).setWidth 64))) (branchTarget c.ctx.pc o.o)) s

/-- The checks of a jump (R65): ALIGN, then XMISS, both with TADDR = t. -/
def jumpTo (t : Word) (s : State) : Res :=
  if t.extractLsb' 0 2 ≠ 0 then .trap { cause := .align, taddr := t }
  else if t.extractLsb' 48 16 ≠ 0 then .trap { cause := .xmiss, taddr := t }
  else .jump s (t.setWidth 48)

/-- R65: PC := g[A]. -/
def execJr (o : OpA) (s : State) : Out := word o.toGuard [bg o.a] (fun s c => jumpTo (c.rg o.a) s) s
/-- R65: the same, with g[D] := zext(PC + 4, 48). -/
def execJrl (o : OpDA) (s : State) : Out :=
  word o.toGuard [bg o.a] (fun s c =>
    jumpTo (c.rg o.a) (s.setCore s.cur (c.setG o.d ((c.ctx.pc + 4).setWidth 64)))) s

/-- A LOOP trap (R67). -/
def loopTrap (code : Nat) : Res := .trap { cause := .loop, tinfo := w64 code }

/-- A step over a loop word outside every pipelined loop ends with it (R330). -/
def Dbg.stepped (d : Dbg) (x : Ctx) : Dbg :=
  if d.armed && !x.pipelined then { d with armed := false, want := some (5, 0), atIter := true } else d

/-- R67: the checks in order, then PC := end for a count of 0, or the engine becomes active and its first kernel iteration
begins. R68 names a run on in sequence and a taken branch to the end of a body, not a `loop` with count 0: that one whose end is an outer body's
end too makes the outer loop's decision there, is the model's choice (log 60). -/
def startLoop (o : OpLoop) (s : State) (c : Core) : Res :=
  let x := c.ctx
  let c := if o.s = 7 then c.warn wLoop else c
  let l : Loop := { Loop.idle with act := true, stg := if o.s = 7 then 0 else o.s, start := x.pc + 4, len := o.e }
  let cnt := c.rg o.a
  let l := { l with count := cnt.setWidth 28 }
  if x.order.contains o.i then loopTrap 1
  else if 2 ≤ l.s ∧ x.pipelined then loopTrap 0
  else if x.order.any fun n => decide ((x.loop n).start.toNat + 4 * (x.loop n).len.toNat < l.start.toNat + 4 * o.e.toNat) then
    loopTrap 2
  else if 2 ^ 28 - 1 < cnt.toNat then loopTrap 3
  else if cnt = 0 then .to (s.setCore s.cur c) l.fin
  else
    let y := { c.ctx.setLoop o.i l with order := o.i :: x.order }
    .ok (s.setCore s.cur { c with dbg := c.dbg.stepped x, ctx := if 2 ≤ l.s then y.stages 0 cnt.toNat l.s else y })

/-- R67: starts a hardware loop. -/
def execLoop (o : OpLoop) (s : State) : Out := word o.toGuard [bg o.a, .loops] (startLoop o) s

/-- R71: the exit request of an active engine. -/
def execLexit (o : OpL) (s : State) : Out :=
  word o.toGuard [.loops] (fun s c =>
    if c.ctx.order.contains o.l then
      s.okCore { c with ctx := c.ctx.setLoop o.l { c.ctx.loop o.l with exit := true } }
    else s.okCore c) s

end Sys2Proof.Machine
end

