-- ==== Sys2Proof/Machine/Scalar.lean ====
section
/-!
DEFINITION. Scalar: the ALU group (R50, R51), the immediate words (R52 to R54), compares and predicate logic (R55 to R57),
`sel` (R58) and the spill words (R63).
-/

namespace Sys2Proof.Machine

/-- A word `g[D] := f g[A] g[B]`. -/
def alu2 (o : OpDAB) (f : Word → Word → Word) (s : State) : Out :=
  word o.toGuard [bg o.a, bg o.b] (fun s c => s.okCore (c.setG o.d (f (c.rg o.a) (c.rg o.b)))) s

/-- A word `g[D] := f g[A]`. -/
def alu1 (o : OpDA) (f : Word → Word) (s : State) : Out :=
  word o.toGuard [bg o.a] (fun s c => s.okCore (c.setG o.d (f (c.rg o.a)))) s

/-- A word `g[D] := f g[A] sext(IMM11, 11)`. -/
def aluI (o : OpDAI) (f : Word → Word → Word) (s : State) : Out :=
  word o.toGuard [bg o.a] (fun s c => s.okCore (c.setG o.d (f (c.rg o.a) (o.i.signExtend 64)))) s

/-- A word that shifts g[A] by IMM11[5:0]. -/
def aluS (o : OpDAS) (f : Word → Nat → Word) (s : State) : Out :=
  word o.toGuard [bg o.a] (fun s c => s.okCore (c.setG o.d (f (c.rg o.a) o.i.toNat))) s

/-- A word `p[D] := f p[A] p[B]`. -/
def pred2 (o : OpP3) (f : Bool → Bool → Bool) (s : State) : Out :=
  word o.toGuard [.p] (fun s c => s.okCore (c.setP o.d (f (c.rp o.a) (c.rp o.b)))) s

/-- A word `p[D] := f p[A]`. -/
def pred1 (o : OpP2) (f : Bool → Bool) (s : State) : Out :=
  word o.toGuard [.p] (fun s c => s.okCore (c.setP o.d (f (c.rp o.a)))) s

/-- Shift counts use b[5:0] (R50). -/
def shiftCount (b : Word) : Nat := b.toNat % 64

/-- The high 64 bits of the signed product. -/
def mulHighS (a b : Word) : Word := BitVec.ofInt 64 ((a.toInt * b.toInt) >>> 64)
/-- The high 64 bits of the unsigned product. -/
def mulHighU (a b : Word) : Word := w64 (a.toNat * b.toNat / 2 ^ 64)

/-- The signed quotient of R51. -/
def divS (a b : Word) : Word := if b = 0 then -1 else BitVec.ofInt 64 (a.toInt.tdiv b.toInt)
/-- The signed remainder of R51; it takes the sign of a. -/
def remS (a b : Word) : Word := if b = 0 then a else BitVec.ofInt 64 (a.toInt - b.toInt * a.toInt.tdiv b.toInt)
/-- The unsigned quotient of R51. -/
def divU (a b : Word) : Word := if b = 0 then -1 else w64 (a.toNat / b.toNat)
/-- The unsigned remainder of R51. -/
def remU (a b : Word) : Word := if b = 0 then a else w64 (a.toNat % b.toNat)

/-- The number of leading zero bits; 64 for 0. -/
def leadingZeros (a : Word) : Nat := if a = 0 then 64 else 63 - a.toNat.log2
/-- The number of one bits. -/
def oneBits (a : Word) : Nat := ((List.range 64).filter a.getLsbD).length

/-- R50: a + b. -/
def execAdd (o : OpDAB) (s : State) : Out := alu2 o (· + ·) s
/-- R50: a − b. -/
def execSub (o : OpDAB) (s : State) : Out := alu2 o (· - ·) s
/-- R50: a & b. -/
def execAnd (o : OpDAB) (s : State) : Out := alu2 o (· &&& ·) s
/-- R50: a | b. -/
def execOr (o : OpDAB) (s : State) : Out := alu2 o (· ||| ·) s
/-- R50: a ^ b. -/
def execXor (o : OpDAB) (s : State) : Out := alu2 o (· ^^^ ·) s
/-- R50: a & ~b. -/
def execAndn (o : OpDAB) (s : State) : Out := alu2 o (fun a b => a &&& ~~~b) s
/-- R50: a << b[5:0]. -/
def execShl (o : OpDAB) (s : State) : Out := alu2 o (fun a b => a <<< shiftCount b) s
/-- R50: a >> b[5:0], zeros shifted in. -/
def execShr (o : OpDAB) (s : State) : Out := alu2 o (fun a b => a >>> shiftCount b) s
/-- R50: a >> b[5:0], copies of a[63] shifted in. -/
def execSar (o : OpDAB) (s : State) : Out := alu2 o (fun a b => a.sshiftRight (shiftCount b)) s
/-- R50: a rotated left by b[5:0]. -/
def execRotl (o : OpDAB) (s : State) : Out := alu2 o (fun a b => a.rotateLeft (shiftCount b)) s
/-- R50: the smaller, signed. -/
def execMin (o : OpDAB) (s : State) : Out := alu2 o (fun a b => if a.slt b then a else b) s
/-- R50: the larger, signed. -/
def execMax (o : OpDAB) (s : State) : Out := alu2 o (fun a b => if a.slt b then b else a) s
/-- R50: the smaller, unsigned. -/
def execMinn (o : OpDAB) (s : State) : Out := alu2 o (fun a b => if a.ult b then a else b) s
/-- R50: the larger, unsigned. -/
def execMaxn (o : OpDAB) (s : State) : Out := alu2 o (fun a b => if a.ult b then b else a) s
/-- R50: (a × b)[63:0]. -/
def execMul (o : OpDAB) (s : State) : Out := alu2 o (· * ·) s
/-- R50: (a × b)[127:64], both signed. -/
def execMulh (o : OpDAB) (s : State) : Out := alu2 o mulHighS s
/-- R50: (a × b)[127:64], both unsigned. -/
def execMulhn (o : OpDAB) (s : State) : Out := alu2 o mulHighU s
/-- R51: signed quotient, without trap. -/
def execDiv (o : OpDAB) (s : State) : Out := alu2 o divS s
/-- R51: unsigned quotient, without trap. -/
def execDivn (o : OpDAB) (s : State) : Out := alu2 o divU s
/-- R51: signed remainder, without trap. -/
def execRem (o : OpDAB) (s : State) : Out := alu2 o remS s
/-- R51: unsigned remainder, without trap. -/
def execRemn (o : OpDAB) (s : State) : Out := alu2 o remU s
/-- R50: leading zero bits. -/
def execClz (o : OpDA) (s : State) : Out := alu1 o (fun a => w64 (leadingZeros a)) s
/-- R50: one bits. -/
def execPopc (o : OpDA) (s : State) : Out := alu1 o (fun a => w64 (oneBits a)) s
/-- R50: sext(a, 8). -/
def execSxb (o : OpDA) (s : State) : Out := alu1 o (sext · 8) s
/-- R50: sext(a, 16). -/
def execSxh (o : OpDA) (s : State) : Out := alu1 o (sext · 16) s
/-- R50: sext(a, 32). -/
def execSxw (o : OpDA) (s : State) : Out := alu1 o (sext · 32) s
/-- R50: zext(a, 8). -/
def execZxb (o : OpDA) (s : State) : Out := alu1 o (zext · 8) s
/-- R50: zext(a, 16). -/
def execZxh (o : OpDA) (s : State) : Out := alu1 o (zext · 16) s
/-- R50: zext(a, 32). -/
def execZxw (o : OpDA) (s : State) : Out := alu1 o (zext · 32) s
/-- R50: sext((a + b)[31:0], 32). -/
def execAddw (o : OpDAB) (s : State) : Out := alu2 o (fun a b => sext (a + b) 32) s
/-- R50: sext((a − b)[31:0], 32). -/
def execSubw (o : OpDAB) (s : State) : Out := alu2 o (fun a b => sext (a - b) 32) s
/-- R50: sext((a[31:0] × b[31:0])[31:0], 32). -/
def execMulw (o : OpDAB) (s : State) : Out := alu2 o (fun a b => sext (a * b) 32) s
/-- R52: g[A] + imm. -/
def execAddi (o : OpDAI) (s : State) : Out := aluI o (· + ·) s
/-- R52: g[A] & imm. -/
def execAndi (o : OpDAI) (s : State) : Out := aluI o (· &&& ·) s
/-- R52: g[A] | imm. -/
def execOri (o : OpDAI) (s : State) : Out := aluI o (· ||| ·) s
/-- R52: g[A] ^ imm. -/
def execXori (o : OpDAI) (s : State) : Out := aluI o (· ^^^ ·) s
/-- R52: left shift by IMM11[5:0]. -/
def execShli (o : OpDAS) (s : State) : Out := aluS o (fun a n => a <<< n) s
/-- R52: logical right shift by IMM11[5:0]. -/
def execShri (o : OpDAS) (s : State) : Out := aluS o (fun a n => a >>> n) s
/-- R52: arithmetic right shift by IMM11[5:0]. -/
def execSari (o : OpDAS) (s : State) : Out := aluS o (fun a n => a.sshiftRight n) s
/-- R53: g[D] := sext(IMM16, 16). -/
def execLi (o : OpDI) (s : State) : Out :=
  word o.toGuard [] (fun s c => s.okCore (c.setG o.d (o.i.signExtend 64))) s
/-- R54: g[D] := (g[D] << 16) | zext(IMM16, 16). -/
def execLsh (o : OpDI) (s : State) : Out :=
  word o.toGuard [bg o.d] (fun s c => s.okCore (c.setG o.d ((c.rg o.d <<< 16) ||| o.i.setWidth 64))) s

/-- R55: the condition, combined into p[D[2:0]], which a combining mode alone reads. -/
def execCmp (o : OpCmp) (s : State) : Out :=
  word o.toGuard ([bg o.a, bg o.b] ++ if o.m = 0 then [] else [.p])
    (fun s c => s.okCore (c.setP o.p (combine o.m (c.rp o.p) (condition o.c (c.rg o.a) (c.rg o.b))))) s
/-- R56: the condition against sext(IMM10, 10), always set. -/
def execCmpi (o : OpCmpi) (s : State) : Out :=
  word o.toGuard [bg o.a] (fun s c => s.okCore (c.setP o.p (condition o.c (c.rg o.a) (o.i.signExtend 64)))) s
/-- R57: p[A] and p[B]. -/
def execPand (o : OpP3) (s : State) : Out := pred2 o (· && ·) s
/-- R57: p[A] or p[B]. -/
def execPor (o : OpP3) (s : State) : Out := pred2 o (· || ·) s
/-- R57: p[A] xor p[B]. -/
def execPxor (o : OpP3) (s : State) : Out := pred2 o (· ^^ ·) s
/-- R57: p[A] and not p[B]. -/
def execPandn (o : OpP3) (s : State) : Out := pred2 o (fun a b => a && !b) s
/-- R57: not p[A]. -/
def execPnot (o : OpP2) (s : State) : Out := pred1 o (! ·) s
/-- R57: p[A]. -/
def execPmov (o : OpP2) (s : State) : Out := pred1 o id s
/-- R58: g[D] := p[FN[2:0]] ? g[A] : g[B]. -/
def execSel (o : OpSel) (s : State) : Out :=
  word o.toGuard [bg o.a, bg o.b, .p]
    (fun s c => s.okCore (c.setG o.d (if c.rp o.p then c.rg o.a else c.rg o.b))) s

/-- W_SPILL where the masked-off slot bits are not zero (R63). -/
def spillWarn (o : OpSpill) (c : Core) : Core := if o.w = 0 then c else c.warn wSpill

/-- R63: g[D] := spill[s]. -/
def execSld (o : OpSpill) (s : State) : Out :=
  word o.toGuard [.spill o.s.toNat]
    (fun s c => s.okCore ((spillWarn o c).setG o.r (c.ctx.spill[o.s.toNat]'o.s.isLt))) s
/-- R63: spill[s] := g[D], with fresh check bits. -/
def execSst (o : OpSpill) (s : State) : Out :=
  word o.toGuard [bg o.r]
    (fun s c =>
      let c' := spillWarn o c
      s.okCore { c' with
        ctx := { c'.ctx with spill := c'.ctx.spill.set o.s.toNat (c.rg o.r) o.s.isLt }
        bad := c'.bad.filter (· != .spill o.s.toNat) }) s

end Sys2Proof.Machine
end

