-- ==== Sys2Proof/Machine/Dispatch.lean ====
section
/-!
DEFINITION. Dispatch: one arm per constructor of `Instr`, each one call of that instruction's meaning. A word of the
instruction set acts on the core `State.cur`; an event acts on the unit it names.
-/

namespace Sys2Proof.Machine

/-- What an instruction or event does. -/
def exec (i : Instr) (s : State) : Host.Outcome State Fault Refusal :=
  match i with
  | .add o => Sys2Proof.Machine.execAdd o s
  | .sub o => Sys2Proof.Machine.execSub o s
  | .and o => Sys2Proof.Machine.execAnd o s
  | .or o => Sys2Proof.Machine.execOr o s
  | .xor o => Sys2Proof.Machine.execXor o s
  | .andn o => Sys2Proof.Machine.execAndn o s
  | .shl o => Sys2Proof.Machine.execShl o s
  | .shr o => Sys2Proof.Machine.execShr o s
  | .sar o => Sys2Proof.Machine.execSar o s
  | .rotl o => Sys2Proof.Machine.execRotl o s
  | .min o => Sys2Proof.Machine.execMin o s
  | .max o => Sys2Proof.Machine.execMax o s
  | .minn o => Sys2Proof.Machine.execMinn o s
  | .maxn o => Sys2Proof.Machine.execMaxn o s
  | .mul o => Sys2Proof.Machine.execMul o s
  | .mulh o => Sys2Proof.Machine.execMulh o s
  | .mulhn o => Sys2Proof.Machine.execMulhn o s
  | .div o => Sys2Proof.Machine.execDiv o s
  | .divn o => Sys2Proof.Machine.execDivn o s
  | .rem o => Sys2Proof.Machine.execRem o s
  | .remn o => Sys2Proof.Machine.execRemn o s
  | .clz o => Sys2Proof.Machine.execClz o s
  | .popc o => Sys2Proof.Machine.execPopc o s
  | .sxb o => Sys2Proof.Machine.execSxb o s
  | .sxh o => Sys2Proof.Machine.execSxh o s
  | .sxw o => Sys2Proof.Machine.execSxw o s
  | .zxb o => Sys2Proof.Machine.execZxb o s
  | .zxh o => Sys2Proof.Machine.execZxh o s
  | .zxw o => Sys2Proof.Machine.execZxw o s
  | .addw o => Sys2Proof.Machine.execAddw o s
  | .subw o => Sys2Proof.Machine.execSubw o s
  | .mulw o => Sys2Proof.Machine.execMulw o s
  | .addi o => Sys2Proof.Machine.execAddi o s
  | .andi o => Sys2Proof.Machine.execAndi o s
  | .ori o => Sys2Proof.Machine.execOri o s
  | .xori o => Sys2Proof.Machine.execXori o s
  | .shli o => Sys2Proof.Machine.execShli o s
  | .shri o => Sys2Proof.Machine.execShri o s
  | .sari o => Sys2Proof.Machine.execSari o s
  | .li o => Sys2Proof.Machine.execLi o s
  | .lsh o => Sys2Proof.Machine.execLsh o s
  | .cmp o => Sys2Proof.Machine.execCmp o s
  | .cmpi o => Sys2Proof.Machine.execCmpi o s
  | .pand o => Sys2Proof.Machine.execPand o s
  | .por o => Sys2Proof.Machine.execPor o s
  | .pxor o => Sys2Proof.Machine.execPxor o s
  | .pandn o => Sys2Proof.Machine.execPandn o s
  | .pnot o => Sys2Proof.Machine.execPnot o s
  | .pmov o => Sys2Proof.Machine.execPmov o s
  | .sel o => Sys2Proof.Machine.execSel o s
  | .ldB o => Sys2Proof.Machine.execLdB o s
  | .ldBz o => Sys2Proof.Machine.execLdBz o s
  | .ldH o => Sys2Proof.Machine.execLdH o s
  | .ldHz o => Sys2Proof.Machine.execLdHz o s
  | .ldW o => Sys2Proof.Machine.execLdW o s
  | .ldWz o => Sys2Proof.Machine.execLdWz o s
  | .ldD o => Sys2Proof.Machine.execLdD o s
  | .stB o => Sys2Proof.Machine.execStB o s
  | .stH o => Sys2Proof.Machine.execStH o s
  | .stW o => Sys2Proof.Machine.execStW o s
  | .stD o => Sys2Proof.Machine.execStD o s
  | .sld o => Sys2Proof.Machine.execSld o s
  | .sst o => Sys2Proof.Machine.execSst o s
  | .fld o => Sys2Proof.Machine.execFld o s
  | .fld2 o => Sys2Proof.Machine.execFld2 o s
  | .amoAdd o => Sys2Proof.Machine.execAmoAdd o s
  | .amoAnd o => Sys2Proof.Machine.execAmoAnd o s
  | .amoOr o => Sys2Proof.Machine.execAmoOr o s
  | .amoXor o => Sys2Proof.Machine.execAmoXor o s
  | .amoMin o => Sys2Proof.Machine.execAmoMin o s
  | .amoMax o => Sys2Proof.Machine.execAmoMax o s
  | .amoSwp o => Sys2Proof.Machine.execAmoSwp o s
  | .amoCas o => Sys2Proof.Machine.execAmoCas o s
  | .amoMinn o => Sys2Proof.Machine.execAmoMinn o s
  | .amoMaxn o => Sys2Proof.Machine.execAmoMaxn o s
  | .fence o => Sys2Proof.Machine.execFence o s
  | .barInit o => Sys2Proof.Machine.execBarInit o s
  | .barArr o => Sys2Proof.Machine.execBarArr o s
  | .barWait o => Sys2Proof.Machine.execBarWait o s
  | .barAw o => Sys2Proof.Machine.execBarAw o s
  | .tokWait o => Sys2Proof.Machine.execTokWait o s
  | .tokTest o => Sys2Proof.Machine.execTokTest o s
  | .tokSnap o => Sys2Proof.Machine.execTokSnap o s
  | .tokWaitv o => Sys2Proof.Machine.execTokWaitv o s
  | .wmkInit o => Sys2Proof.Machine.execWmkInit o s
  | .wmkWait o => Sys2Proof.Machine.execWmkWait o s
  | .wmkAdd o => Sys2Proof.Machine.execWmkAdd o s
  | .wmkGen o => Sys2Proof.Machine.execWmkGen o s
  | .wmkTest o => Sys2Proof.Machine.execWmkTest o s
  | .br o => Sys2Proof.Machine.execBr o s
  | .call o => Sys2Proof.Machine.execCall o s
  | .jr o => Sys2Proof.Machine.execJr o s
  | .jrl o => Sys2Proof.Machine.execJrl o s
  | .loop o => Sys2Proof.Machine.execLoop o s
  | .lexit o => Sys2Proof.Machine.execLexit o s
  | .mload o => Sys2Proof.Machine.execMload o s
  | .mswap o => Sys2Proof.Machine.execMswap o s
  | .mcfg o => Sys2Proof.Machine.execMcfg o s
  | .mgo o => Sys2Proof.Machine.execMgo o s
  | .mstream o => Sys2Proof.Machine.execMstream o s
  | .mdrain o => Sys2Proof.Machine.execMdrain o s
  | .mzero o => Sys2Proof.Machine.execMzero o s
  | .mmode o => Sys2Proof.Machine.execMmode o s
  | .wtab o => Sys2Proof.Machine.execWtab o s
  | .wstream o => Sys2Proof.Machine.execWstream o s
  | .cpy o => Sys2Proof.Machine.execCpy o s
  | .cnest o => Sys2Proof.Machine.execCnest o s
  | .cmc o => Sys2Proof.Machine.execCmc o s
  | .cacc o => Sys2Proof.Machine.execCacc o s
  | .cgat o => Sys2Proof.Machine.execCgat o s
  | .csct o => Sys2Proof.Machine.execCsct o s
  | .cstage o => Sys2Proof.Machine.execCstage o s
  | .fbind o => Sys2Proof.Machine.execFbind o s
  | .ftick o => Sys2Proof.Machine.execFtick o s
  | .walk o => Sys2Proof.Machine.execWalk o s
  | .nop o => Sys2Proof.Machine.execNop o s
  | .halt o => Sys2Proof.Machine.execHalt o s
  | .trap o => Sys2Proof.Machine.execTrap o s
  | .eret o => Sys2Proof.Machine.execEret o s
  | .brk o => Sys2Proof.Machine.execBrk o s
  | .ifence o => Sys2Proof.Machine.execIfence o s
  | .tmark o => Sys2Proof.Machine.execTmark o s
  | .yield o => Sys2Proof.Machine.execYield o s
  | .csrr o => Sys2Proof.Machine.execCsrr o s
  | .csrw o => Sys2Proof.Machine.execCsrw o s
  | .vfence o => Sys2Proof.Machine.execVfence o s
  | .vbusy o => Sys2Proof.Machine.execVbusy o s
  | .vmode o => Sys2Proof.Machine.execVmode o s
  | .vtake o => Sys2Proof.Machine.execVtake o s
  | .vadd o => Sys2Proof.Machine.execVadd o s
  | .vsub o => Sys2Proof.Machine.execVsub o s
  | .vmul o => Sys2Proof.Machine.execVmul o s
  | .vfma o => Sys2Proof.Machine.execVfma o s
  | .vfms o => Sys2Proof.Machine.execVfms o s
  | .vmin o => Sys2Proof.Machine.execVmin o s
  | .vmax o => Sys2Proof.Machine.execVmax o s
  | .vabs o => Sys2Proof.Machine.execVabs o s
  | .vneg o => Sys2Proof.Machine.execVneg o s
  | .vadds o => Sys2Proof.Machine.execVadds o s
  | .vmuls o => Sys2Proof.Machine.execVmuls o s
  | .vfmas o => Sys2Proof.Machine.execVfmas o s
  | .vrcp o => Sys2Proof.Machine.execVrcp o s
  | .vrsq o => Sys2Proof.Machine.execVrsq o s
  | .vexp2 o => Sys2Proof.Machine.execVexp2 o s
  | .vlog2 o => Sys2Proof.Machine.execVlog2 o s
  | .viadd o => Sys2Proof.Machine.execViadd o s
  | .visub o => Sys2Proof.Machine.execVisub o s
  | .vimul o => Sys2Proof.Machine.execVimul o s
  | .vand o => Sys2Proof.Machine.execVand o s
  | .vor o => Sys2Proof.Machine.execVor o s
  | .vxor o => Sys2Proof.Machine.execVxor o s
  | .vshl o => Sys2Proof.Machine.execVshl o s
  | .vshr o => Sys2Proof.Machine.execVshr o s
  | .vsar o => Sys2Proof.Machine.execVsar o s
  | .vimin o => Sys2Proof.Machine.execVimin o s
  | .vimax o => Sys2Proof.Machine.execVimax o s
  | .viadds o => Sys2Proof.Machine.execViadds o s
  | .vcmp o => Sys2Proof.Machine.execVcmp o s
  | .vcmps o => Sys2Proof.Machine.execVcmps o s
  | .vsel o => Sys2Proof.Machine.execVsel o s
  | .vmov o => Sys2Proof.Machine.execVmov o s
  | .vbcs o => Sys2Proof.Machine.execVbcs o s
  | .viota o => Sys2Proof.Machine.execViota o s
  | .kop o => Sys2Proof.Machine.execKop o s
  | .kpop o => Sys2Proof.Machine.execKpop o s
  | .vget o => Sys2Proof.Machine.execVget o s
  | .vrotr o => Sys2Proof.Machine.execVrotr o s
  | .vrotc o => Sys2Proof.Machine.execVrotc o s
  | .vbcr o => Sys2Proof.Machine.execVbcr o s
  | .vbcc o => Sys2Proof.Machine.execVbcc o s
  | .vredr o => Sys2Proof.Machine.execVredr o s
  | .vredc o => Sys2Proof.Machine.execVredc o s
  | .vshuf o => Sys2Proof.Machine.execVshuf o s
  | .vcvt o => Sys2Proof.Machine.execVcvt o s
  | .vpack o => Sys2Proof.Machine.execVpack o s
  | .vunpk o => Sys2Proof.Machine.execVunpk o s
  | .vfix o => Sys2Proof.Machine.execVfix o s
  | .vflt o => Sys2Proof.Machine.execVflt o s
  | .vld o => Sys2Proof.Machine.execVld o s
  | .vst o => Sys2Proof.Machine.execVst o s
  | .vldb o => Sys2Proof.Machine.execVldb o s
  | .vstadd o => Sys2Proof.Machine.execVstadd o s
  | .vzero o => Sys2Proof.Machine.execVzero o s
  | .loadQueueData core idx piece => Sys2Proof.Machine.execLoadQueueData core idx piece s
  | .storePerform core entry piece => Sys2Proof.Machine.execStorePerform core entry piece s
  | .coreIdle core => Sys2Proof.Machine.execCoreIdle core s
  | .engineCommandStart core q => Sys2Proof.Machine.execEngineCommandStart core q s
  | .engineCommandComplete core q num => Sys2Proof.Machine.execEngineCommandComplete core q num s
  | .wave core => Sys2Proof.Machine.execWave core s
  | .waymarkArrival core num bytes => Sys2Proof.Machine.execWaymarkArrival core num bytes s
  | .parking core num => Sys2Proof.Machine.execParking core num s
  | .tileDrain core num => Sys2Proof.Machine.execTileDrain core num s
  | .deposit core entry piece => Sys2Proof.Machine.execDeposit core entry piece s
  | .seal stripe => Sys2Proof.Machine.execSeal stripe s
  | .retrainBegin stack ch => Sys2Proof.Machine.execRetrainBegin stack ch s
  | .retrainEnd stack ch ok => Sys2Proof.Machine.execRetrainEnd stack ch ok s
  | .rebuilt stack ch => Sys2Proof.Machine.execRebuilt stack ch s
  | .admission part => Sys2Proof.Machine.execAdmission part s
  | .taskStart part => Sys2Proof.Machine.execTaskStart part s
  | .retirement part tcb => Sys2Proof.Machine.execRetirement part tcb s
  | .completionEntry part => Sys2Proof.Machine.execCompletionEntry part s
  | .hang part tcb => Sys2Proof.Machine.execHang part tcb s
  | .preemption part => Sys2Proof.Machine.execPreemption part s
  | .swap core => Sys2Proof.Machine.execSwap core s
  | .taskResume part tcb => Sys2Proof.Machine.execTaskResume part tcb s
  | .trapEntry core => Sys2Proof.Machine.execTrapEntry core s
  | .debugStop core => Sys2Proof.Machine.execDebugStop core s
  | .prqReq core v => Sys2Proof.Machine.execPrqReq core v s
  | .haltreq core => Sys2Proof.Machine.execHaltreq core s
  | .resume core => Sys2Proof.Machine.execResume core s
  | .claim core own => Sys2Proof.Machine.execClaim core own s
  | .ctxctlEmpty core => Sys2Proof.Machine.execCtxctlEmpty core s
  | .ctxctlLoaded core => Sys2Proof.Machine.execCtxctlLoaded core s
  | .sealing core => Sys2Proof.Machine.execSealing core s
  | .frzThaw part => Sys2Proof.Machine.execFrzThaw part s
  | .cownWrite part k v => Sys2Proof.Machine.execCownWrite part k v s
  | .tlbinvGo part => Sys2Proof.Machine.execTlbinvGo part s
  | .invalidationComplete part => Sys2Proof.Machine.execInvalidationComplete part s
  | .sinkEnable sink => Sys2Proof.Machine.execSinkEnable sink s
  | .sync sink => Sys2Proof.Machine.execSync sink s
  | .sample core => Sys2Proof.Machine.execSample core s
  | .drop sink => Sys2Proof.Machine.execDrop sink s
  | .stall core unit ticks => Sys2Proof.Machine.execStall core unit ticks s
  | .cqEnable part => Sys2Proof.Machine.execCqEnable part s
  | .cqtailWrite part v => Sys2Proof.Machine.execCqtailWrite part v s
  | .devevtRead => Sys2Proof.Machine.execDevevtRead s
  | .pctlClr core => Sys2Proof.Machine.execPctlClr core s
  | .offer e => Sys2Proof.Machine.execOffer e s
  | .accept e peer => Sys2Proof.Machine.execAccept e peer s
  | .revoke e peer => Sys2Proof.Machine.execRevoke e peer s
  | .release e peer => Sys2Proof.Machine.execRelease e peer s
  | .clear e => Sys2Proof.Machine.execClear e s
  | .deadline e => Sys2Proof.Machine.execDeadline e s
  | .leaseAccess e off req sent => Sys2Proof.Machine.execLeaseAccess e off req sent s
  | .exportAccess va part req sent => Sys2Proof.Machine.execExportAccess va part req sent s
  | .hostMemRead m n => Sys2Proof.Machine.execHostMemRead m n s
  | .hostMemWrite m bytes => Sys2Proof.Machine.execHostMemWrite m bytes s
  | .trip loc stack temp => Sys2Proof.Machine.execTrip loc stack temp s
  | .deviceReset image sig => Sys2Proof.Machine.execDeviceReset image sig s
  | .computeRelease => Sys2Proof.Machine.execComputeRelease s
  | .lcreq v => Sys2Proof.Machine.execLcreq v s
  | .mwipe v => Sys2Proof.Machine.execMwipe v s
  | .wipeComplete => Sys2Proof.Machine.execWipeComplete s
  | .shactlInit => Sys2Proof.Machine.execShactlInit s
  | .shactlFinal => Sys2Proof.Machine.execShactlFinal s
  | .shain v => Sys2Proof.Machine.execShain v s
  | .ecctlGo => Sys2Proof.Machine.execEcctlGo s
  | .verifyComplete => Sys2Proof.Machine.execVerifyComplete s
  | .kwipe v => Sys2Proof.Machine.execKwipe v s
  | .amext v => Sys2Proof.Machine.execAmext v s
  | .dport v => Sys2Proof.Machine.execDport v s
  | .rng d => Sys2Proof.Machine.execRng d s
  | .mailboxWrite off v => Sys2Proof.Machine.execMailboxWrite off v s
  | .registerWrite m v => Sys2Proof.Machine.execRegisterWrite m v s
  | .governorSlowing power temp budget => Sys2Proof.Machine.execGovernorSlowing power temp budget s
  | .lenderWipeComplete e => Sys2Proof.Machine.execLenderWipeComplete e s
  | .spdmRequest req => Sys2Proof.Machine.execSpdmRequest req s

end Sys2Proof.Machine
end

