-- ==== Sys2Proof/Machine/Turn.lean ====
section
/-!
DEFINITION. Turns: one word of a core with the checks around it (R32, R309, R328), the actions of the agenda, and what moves
next when the agenda is empty.
-/

namespace Sys2Proof.Machine

/-- A pipelined loop that has drained for a request which was withdrawn since goes on at once (R308, R309). -/
def State.goOn (s : State) (p : Nat) : State :=
  let c := s.core p
  if c.ctx.refilling && !c.sys && !c.wanted then s.setCore p { c with ctx := c.ctx.refill } else s

/-- The word `w` at the PC of core `p`, which is `cur`: the breakpoint, the decode, then the word (R32, R328). One that uses what is under
way waits for it (R12). -/
def State.runCode (s : State) (p : Nat) (w : Code) : Out :=
  let c := s.core p
  let trap := fun (s : State) (t : TrapInfo) => Host.Outcome.next (s.raise p (s.trapOf (wordGuard w) t))
  let go := fun (s : State) => (match decode w with
    | .ok i =>
      let rs := c.uses (wordGuard w) i
      let s := s.catchUp p rs
      if (s.core p).late.any (·.feeds rs) then .next (s.mapCore p fun c => { c with stalled := true }) else exec i s
    | .error _ => trap s { cause := .illegal })
  match (if c.dbg.armed then none else c.breakAt c.ctx.pc) with
  | none => go s
  | some i =>
    if !c.dbg.claim then trap s { cause := .brk, tinfo := w64 i.val }
    else
      let s' := if c.dbg.want.isSome then s
        else s.mapCore p fun c => { c with dbg := { c.dbg with want := some (2, BitVec.ofNat 2 i.val), atIter := false } }
      if c.ctx.pipelined then go s' else .next s'

/-- One word of core `p`, which is `cur`: the boundary, the fetch (R13, R32), then the word. An uncorrectable error in the fetch block gives
TINFO 0, also where the lender reports it (R13). -/
def State.runWord (s : State) (p : Nat) : Out :=
  let s := s.goOn p
  let c := s.core p
  let l := c.loopTag Guard.always
  if c.requestLands then .next (s.takeRequest p)
  else match s.fetch p with
    | .wait => .next (s.setCore p { c with stalled := true })
    | .trap t none => .next ((s.fetchedBy p c.ctx.pc.toNat [] id).raise p t)
    | .trap t (some b) => .next ((s.fetchedBy p c.ctx.pc.toNat [b] (·.reportKey 0x39 b l)).raise p t)
    | .got w corr => (s.fetched p c.ctx.pc.toNat corr l).runCode p w
    | .lease e off =>
      (match s.remote p (.lease e off) (.read 4) with
        | .wait => .next (s.setCore p { c with stalled := true })
        | .refused k s' =>
          let ti := if k = .memerr then 0 else refusalInfo (.lease e off) k
          .next ((s'.fetchedBy p c.ctx.pc.toNat [] id).raise p { cause := k, tinfo := ti, taddr := c.ctx.pc.setWidth 64 })
        | .done b s' => (s'.fetchedBy p c.ctx.pc.toNat [] id).runCode p (codeOfList (b.take 4)))

/-- A word whose access of the device's own must wait, to write a fault record (R305, R366), has not run yet. -/
def State.tryWord (s : State) (p : Nat) : Out :=
  match s.runWord p with
  | .next t => if t.devHeld then .next (s.mapCore p fun c => { c with stalled := true }) else .next t
  | o => o

/-- The next word of core `p`, if it may run one. -/
def State.attempt (s : State) (p : Nat) : Out := if s.canRun p then s.tryWord p else .next s

/-! ### Words under way -/

/-- The word at the PC of core `p` moves a waymark. -/
def State.addsWmk (s : State) (p : Nat) : Bool :=
  match (s.wordAt p).map decode with
  | some (.ok (.wmkAdd _)) => true
  | _ => false

/-- The word at the PC of core `p` begins, and the core runs on (R25, R230): no request, stop or breakpoint takes it first. -/
def State.send (s : State) (p : Nat) : State :=
  let s1 := s.goOn p
  let c := s1.core p
  if !s.canRun p || c.requestLands || (!c.dbg.armed && (c.breakAt c.ctx.pc).isSome) then s
  else match s1.fetch p with
    | .got w corr => (match decode w with
      | .ok i => ((s1.fetched p c.ctx.pc.toNat corr (c.loopTag Guard.always)).sendWord p i).getD s
      | .error _ => s)
    | _ => s

/-! ### What moves next -/

/-- The core after `cur` in the order of their numbers, round and round. -/
def State.nextCore (s : State) : Nat :=
  match s.cores.find? (s.cur < ·.1) with
  | some e => e.1
  | none => (s.cores.head?.map (·.1)).getD s.cur

/-- `cur` has nothing to run now: its pending work moves, and the next core is `cur`. After the last core the scheduler moves
and one tick passes. -/
def State.pass (s : State) : State :=
  let s := s.sweep s.cur
  let s := s.mapCore s.cur fun c => { c with stalled := false }
  let n := s.nextCore
  let s := if s.cur < n then s else s.sweepAll.tick 1
  { s with cur := n, since := (s.core n).ctx.words }

/-- The words that a core runs, with an empty agenda, before pending work moves: every access performs within a finite time, whatever the
words that follow (R231). -/
def spinMax : Nat := 256

/-- The core `cur` has not yet completed the words of its turn. -/
def State.inTurn (s : State) : Bool := decide ((s.core s.cur).ctx.words < s.since + spinMax)

/-- What moves when the agenda is empty: the core `cur` while it is not stalled; else, and after `spinMax` words, pending work. -/
def State.turn (s : State) : Out :=
  if s.canRun s.cur && !(s.core s.cur).stalled && s.inTurn then
    s.settled (s.addsWmk s.cur) (·.mapCore s.cur fun c => { c with stalled := true }) (·.tryWord s.cur)
  else .next s.pass

/-- What may still happen after a thermal trip (R338, R352, R353): the host reaches the device block, whose THERM shows the trip, and
resets the device (log 56). -/
def Action.afterTrip : Action → Bool
  | .ev .devevtRead | .ev (.deviceReset _ _) => true
  | .ev (.registerWrite m _) | .hostRead m => mmioBlock m.addr.toNat == some .device
  | _ => false

/-- The core that an action names. -/
def Action.site : Action → Nat
  | .core p | .send p | .back p _ | .vu p _ | .work p _ _ _ | .prefetch p _ _ _ _ | .cycles p _ | .icacheFill p _ | .icacheDrop p _ | .flush p _ => p
  | .upset (.acc p _ _) | .upset (.core p _) | .upset (.icache p _) | .upset (.soft p _ _) => p
  | _ => 0

/-- An action that may move a waymark by an arrival. -/
def State.arrives (s : State) : Action → Bool
  | .core p => s.addsWmk p
  | .ev (.waymarkArrival _ _ _) => true
  | .ev (.exportAccess _ _ req _) => (match req with | .arrival _ | .closure _ => true | _ => false)
  | _ => false

/-- Carries out one action; one that names no core changes nothing. -/
def State.move (s : State) (a : Action) : Out :=
  if Config.colophon < a.site then .next s else match a with
  | .core p => { s with cur := p, since := (s.core p).ctx.words }.attempt p
  | .ev i => if i.isWord then .next s else exec i s
  | .vu p delay => .next ((s.vuIssue p delay).loadFault p)
  | .work p q num k => .next (s.work p q num k)
  | .prefetch p q num va n => .next (s.prefetch p q num va n)
  | .tick n => .next (s.tick n)
  | .cycles p n => .next (s.cycles p n)
  | .icacheFill p va => .next (s.icacheFill p va)
  | .icacheDrop p key => .next (s.mapCore p fun c => { c with icache := c.icache.filter (·.1 != key) })
  | .tlbFill part va => .next (s.tlbFill part va)
  | .tlbDrop part page =>
    let q := s.part part
    .next (s.setPart part { q with tlb := q.tlb.filter (·.1 != page) })
  | .flush p u => .next (s.flushTrace p u)
  | .refill stack n => .next { s with hbm := s.hbm.refill stack n }
  | .upset u => .next (s.upset u)
  | .readings power temp coldest budget => .next (s.readings power temp coldest budget)
  | .hostRead m => .next (s.hostRead m)
  | .send p => .next (s.send p)
  | .back p k => .next (s.lateGo p k)
  | .message d => .next (s.cross d.val (d.val + 1))

/-- One action of the agenda: the accesses that must come first perform first, and nothing happens where an access of the device's own must
wait. -/
def State.act (s : State) (a : Action) : Out := s.settled (s.arrives a) id fun s => s.unlessHeld (·.move a)

end Sys2Proof.Machine
end

