-- ==== Sys2Proof/Machine/Step.lean ====
section
/-!
DEFINITION. Step: one step of the package.
-/

namespace Sys2Proof.Machine

/-- One step: after a thermal trip nothing runs but the host's reads and its reset (R353); else the head of the agenda
moves, and with no agenda the core `cur`. -/
def step (s : State) : Host.Outcome State Fault Refusal :=
  match s.agenda with
  | a :: rest => if s.tripped && !a.afterTrip then .fault .clocksStopped else { s with agenda := rest }.act a
  | [] => if s.tripped then .fault .clocksStopped else s.turn

/-- `s` with an instruction of `nbits` bits `w` where core 0 fetches next: core 0 runs a 1 × 1 task whose PC is the first
word of its own scratchpad (SELF). -/
def State.withFetchWord (s : State) (nbits w : Nat) : State :=
  let c := s.core 0
  let c := { c with
    phase := .running
    stalled := false
    trap := none
    preempt := false
    icache := []
    late := []
    dbg := { c.dbg with stopped := false, want := none, armed := false }
    seat := { c.seat with vx := 0, vy := 0, lw := 0, lh := 0, needs := 0 }
    ctx := { c.ctx with mode := .task, pc := 0xFF0000400000 } }
  { s.setCore 0 c with
    mem := Memory.setAll s.mem (spadKey 0 0) (leBytes 4 (w % 2 ^ nbits))
    agenda := []
    tripped := false
    released := true
    cur := 0
    since := c.ctx.words
    devHeld := false }

end Sys2Proof.Machine
end

