-- ==== Sys2Proof/Laws/State.lean ====
section
/-!
SUPPORT. Laws of the state record: what each update of `State`, `Core` and `Ctx` leaves in each field. All hold by `rfl`.
-/

namespace Sys2Proof.Machine

@[simp] theorem State.setCore_parts (s : State) (p : Nat) (c : Core) : (s.setCore p c).parts = s.parts := rfl
@[simp] theorem State.setCore_mem (s : State) (p : Nat) (c : Core) : (s.setCore p c).mem = s.mem := rfl
@[simp] theorem State.setCore_memBad (s : State) (p : Nat) (c : Core) : (s.setCore p c).memBad = s.memBad := rfl
@[simp] theorem State.setCore_memSoft (s : State) (p : Nat) (c : Core) : (s.setCore p c).memSoft = s.memSoft := rfl
@[simp] theorem State.setCore_regions (s : State) (p : Nat) (c : Core) : (s.setCore p c).regions = s.regions := rfl
@[simp] theorem State.setCore_tiles (s : State) (p : Nat) (c : Core) : (s.setCore p c).tiles = s.tiles := rfl
@[simp] theorem State.setCore_hbm (s : State) (p : Nat) (c : Core) : (s.setCore p c).hbm = s.hbm := rfl
@[simp] theorem State.setCore_sinks (s : State) (p : Nat) (c : Core) : (s.setCore p c).sinks = s.sinks := rfl
@[simp] theorem State.setCore_devevt (s : State) (p : Nat) (c : Core) : (s.setCore p c).devevt = s.devevt := rfl
@[simp] theorem State.setCore_msi (s : State) (p : Nat) (c : Core) : (s.setCore p c).msi = s.msi := rfl
@[simp] theorem State.setCore_pkgid (s : State) (p : Nat) (c : Core) : (s.setCore p c).pkgid = s.pkgid := rfl
@[simp] theorem State.setCore_exbase (s : State) (p : Nat) (c : Core) : (s.setCore p c).exbase = s.exbase := rfl
@[simp] theorem State.setCore_started (s : State) (p : Nat) (c : Core) : (s.setCore p c).started = s.started := rfl
@[simp] theorem State.setCore_leases (s : State) (p : Nat) (c : Core) : (s.setCore p c).leases = s.leases := rfl
@[simp] theorem State.setCore_outbox (s : State) (p : Nat) (c : Core) : (s.setCore p c).outbox = s.outbox := rfl
@[simp] theorem State.setCore_replies (s : State) (p : Nat) (c : Core) : (s.setCore p c).replies = s.replies := rfl
@[simp] theorem State.setCore_plim (s : State) (p : Nat) (c : Core) : (s.setCore p c).plim = s.plim := rfl
@[simp] theorem State.setCore_power (s : State) (p : Nat) (c : Core) : (s.setCore p c).power = s.power := rfl
@[simp] theorem State.setCore_temp (s : State) (p : Nat) (c : Core) : (s.setCore p c).temp = s.temp := rfl
@[simp] theorem State.setCore_throt (s : State) (p : Nat) (c : Core) : (s.setCore p c).throt = s.throt := rfl
@[simp] theorem State.setCore_tripped (s : State) (p : Nat) (c : Core) : (s.setCore p c).tripped = s.tripped := rfl
@[simp] theorem State.setCore_released (s : State) (p : Nat) (c : Core) : (s.setCore p c).released = s.released := rfl
@[simp] theorem State.setCore_time (s : State) (p : Nat) (c : Core) : (s.setCore p c).time = s.time := rfl
@[simp] theorem State.setCore_seals (s : State) (p : Nat) (c : Core) : (s.setCore p c).seals = s.seals := rfl
@[simp] theorem State.setCore_evictions (s : State) (p : Nat) (c : Core) : (s.setCore p c).evictions = s.evictions := rfl
@[simp] theorem State.setCore_colo (s : State) (p : Nat) (c : Core) : (s.setCore p c).colo = s.colo := rfl
@[simp] theorem State.setCore_cur (s : State) (p : Nat) (c : Core) : (s.setCore p c).cur = s.cur := rfl
@[simp] theorem State.setCore_agenda (s : State) (p : Nat) (c : Core) : (s.setCore p c).agenda = s.agenda := rfl
@[simp] theorem State.setCore_free (s : State) (p : Nat) (c : Core) : (s.setCore p c).free = s.free := rfl
@[simp] theorem State.mapCore_parts (s : State) (p : Nat) (f : Core → Core) : (s.mapCore p f).parts = s.parts := rfl
@[simp] theorem State.mapCore_mem (s : State) (p : Nat) (f : Core → Core) : (s.mapCore p f).mem = s.mem := rfl
@[simp] theorem State.mapCore_memBad (s : State) (p : Nat) (f : Core → Core) : (s.mapCore p f).memBad = s.memBad := rfl
@[simp] theorem State.mapCore_memSoft (s : State) (p : Nat) (f : Core → Core) : (s.mapCore p f).memSoft = s.memSoft := rfl
@[simp] theorem State.mapCore_regions (s : State) (p : Nat) (f : Core → Core) : (s.mapCore p f).regions = s.regions := rfl
@[simp] theorem State.mapCore_tiles (s : State) (p : Nat) (f : Core → Core) : (s.mapCore p f).tiles = s.tiles := rfl
@[simp] theorem State.mapCore_hbm (s : State) (p : Nat) (f : Core → Core) : (s.mapCore p f).hbm = s.hbm := rfl
@[simp] theorem State.mapCore_sinks (s : State) (p : Nat) (f : Core → Core) : (s.mapCore p f).sinks = s.sinks := rfl
@[simp] theorem State.mapCore_devevt (s : State) (p : Nat) (f : Core → Core) : (s.mapCore p f).devevt = s.devevt := rfl
@[simp] theorem State.mapCore_msi (s : State) (p : Nat) (f : Core → Core) : (s.mapCore p f).msi = s.msi := rfl
@[simp] theorem State.mapCore_pkgid (s : State) (p : Nat) (f : Core → Core) : (s.mapCore p f).pkgid = s.pkgid := rfl
@[simp] theorem State.mapCore_exbase (s : State) (p : Nat) (f : Core → Core) : (s.mapCore p f).exbase = s.exbase := rfl
@[simp] theorem State.mapCore_started (s : State) (p : Nat) (f : Core → Core) : (s.mapCore p f).started = s.started := rfl
@[simp] theorem State.mapCore_leases (s : State) (p : Nat) (f : Core → Core) : (s.mapCore p f).leases = s.leases := rfl
@[simp] theorem State.mapCore_outbox (s : State) (p : Nat) (f : Core → Core) : (s.mapCore p f).outbox = s.outbox := rfl
@[simp] theorem State.mapCore_replies (s : State) (p : Nat) (f : Core → Core) : (s.mapCore p f).replies = s.replies := rfl
@[simp] theorem State.mapCore_plim (s : State) (p : Nat) (f : Core → Core) : (s.mapCore p f).plim = s.plim := rfl
@[simp] theorem State.mapCore_power (s : State) (p : Nat) (f : Core → Core) : (s.mapCore p f).power = s.power := rfl
@[simp] theorem State.mapCore_temp (s : State) (p : Nat) (f : Core → Core) : (s.mapCore p f).temp = s.temp := rfl
@[simp] theorem State.mapCore_throt (s : State) (p : Nat) (f : Core → Core) : (s.mapCore p f).throt = s.throt := rfl
@[simp] theorem State.mapCore_tripped (s : State) (p : Nat) (f : Core → Core) : (s.mapCore p f).tripped = s.tripped := rfl
@[simp] theorem State.mapCore_released (s : State) (p : Nat) (f : Core → Core) : (s.mapCore p f).released = s.released := rfl
@[simp] theorem State.mapCore_time (s : State) (p : Nat) (f : Core → Core) : (s.mapCore p f).time = s.time := rfl
@[simp] theorem State.mapCore_seals (s : State) (p : Nat) (f : Core → Core) : (s.mapCore p f).seals = s.seals := rfl
@[simp] theorem State.mapCore_evictions (s : State) (p : Nat) (f : Core → Core) : (s.mapCore p f).evictions = s.evictions := rfl
@[simp] theorem State.mapCore_colo (s : State) (p : Nat) (f : Core → Core) : (s.mapCore p f).colo = s.colo := rfl
@[simp] theorem State.mapCore_cur (s : State) (p : Nat) (f : Core → Core) : (s.mapCore p f).cur = s.cur := rfl
@[simp] theorem State.mapCore_agenda (s : State) (p : Nat) (f : Core → Core) : (s.mapCore p f).agenda = s.agenda := rfl
@[simp] theorem State.mapCore_free (s : State) (p : Nat) (f : Core → Core) : (s.mapCore p f).free = s.free := rfl
@[simp] theorem State.setPart_cores (s : State) (n : BitVec 4) (q : Part) : (s.setPart n q).cores = s.cores := rfl
@[simp] theorem State.setPart_mem (s : State) (n : BitVec 4) (q : Part) : (s.setPart n q).mem = s.mem := rfl
@[simp] theorem State.setPart_memBad (s : State) (n : BitVec 4) (q : Part) : (s.setPart n q).memBad = s.memBad := rfl
@[simp] theorem State.setPart_memSoft (s : State) (n : BitVec 4) (q : Part) : (s.setPart n q).memSoft = s.memSoft := rfl
@[simp] theorem State.setPart_regions (s : State) (n : BitVec 4) (q : Part) : (s.setPart n q).regions = s.regions := rfl
@[simp] theorem State.setPart_tiles (s : State) (n : BitVec 4) (q : Part) : (s.setPart n q).tiles = s.tiles := rfl
@[simp] theorem State.setPart_hbm (s : State) (n : BitVec 4) (q : Part) : (s.setPart n q).hbm = s.hbm := rfl
@[simp] theorem State.setPart_sinks (s : State) (n : BitVec 4) (q : Part) : (s.setPart n q).sinks = s.sinks := rfl
@[simp] theorem State.setPart_devevt (s : State) (n : BitVec 4) (q : Part) : (s.setPart n q).devevt = s.devevt := rfl
@[simp] theorem State.setPart_msi (s : State) (n : BitVec 4) (q : Part) : (s.setPart n q).msi = s.msi := rfl
@[simp] theorem State.setPart_pkgid (s : State) (n : BitVec 4) (q : Part) : (s.setPart n q).pkgid = s.pkgid := rfl
@[simp] theorem State.setPart_exbase (s : State) (n : BitVec 4) (q : Part) : (s.setPart n q).exbase = s.exbase := rfl
@[simp] theorem State.setPart_started (s : State) (n : BitVec 4) (q : Part) : (s.setPart n q).started = s.started := rfl
@[simp] theorem State.setPart_leases (s : State) (n : BitVec 4) (q : Part) : (s.setPart n q).leases = s.leases := rfl
@[simp] theorem State.setPart_outbox (s : State) (n : BitVec 4) (q : Part) : (s.setPart n q).outbox = s.outbox := rfl
@[simp] theorem State.setPart_replies (s : State) (n : BitVec 4) (q : Part) : (s.setPart n q).replies = s.replies := rfl
@[simp] theorem State.setPart_plim (s : State) (n : BitVec 4) (q : Part) : (s.setPart n q).plim = s.plim := rfl
@[simp] theorem State.setPart_power (s : State) (n : BitVec 4) (q : Part) : (s.setPart n q).power = s.power := rfl
@[simp] theorem State.setPart_temp (s : State) (n : BitVec 4) (q : Part) : (s.setPart n q).temp = s.temp := rfl
@[simp] theorem State.setPart_throt (s : State) (n : BitVec 4) (q : Part) : (s.setPart n q).throt = s.throt := rfl
@[simp] theorem State.setPart_tripped (s : State) (n : BitVec 4) (q : Part) : (s.setPart n q).tripped = s.tripped := rfl
@[simp] theorem State.setPart_released (s : State) (n : BitVec 4) (q : Part) : (s.setPart n q).released = s.released := rfl
@[simp] theorem State.setPart_time (s : State) (n : BitVec 4) (q : Part) : (s.setPart n q).time = s.time := rfl
@[simp] theorem State.setPart_seals (s : State) (n : BitVec 4) (q : Part) : (s.setPart n q).seals = s.seals := rfl
@[simp] theorem State.setPart_evictions (s : State) (n : BitVec 4) (q : Part) : (s.setPart n q).evictions = s.evictions := rfl
@[simp] theorem State.setPart_colo (s : State) (n : BitVec 4) (q : Part) : (s.setPart n q).colo = s.colo := rfl
@[simp] theorem State.setPart_cur (s : State) (n : BitVec 4) (q : Part) : (s.setPart n q).cur = s.cur := rfl
@[simp] theorem State.setPart_agenda (s : State) (n : BitVec 4) (q : Part) : (s.setPart n q).agenda = s.agenda := rfl
@[simp] theorem State.setPart_free (s : State) (n : BitVec 4) (q : Part) : (s.setPart n q).free = s.free := rfl
@[simp] theorem State.poke_cores (s : State) (k : Nat) (l : List Byte) : (s.poke k l).cores = s.cores := rfl
@[simp] theorem State.poke_parts (s : State) (k : Nat) (l : List Byte) : (s.poke k l).parts = s.parts := rfl
@[simp] theorem State.poke_memBad (s : State) (k : Nat) (l : List Byte) : (s.poke k l).memBad = s.memBad := rfl
@[simp] theorem State.poke_memSoft (s : State) (k : Nat) (l : List Byte) : (s.poke k l).memSoft = s.memSoft := rfl
@[simp] theorem State.poke_regions (s : State) (k : Nat) (l : List Byte) : (s.poke k l).regions = s.regions := rfl
@[simp] theorem State.poke_tiles (s : State) (k : Nat) (l : List Byte) : (s.poke k l).tiles = s.tiles := rfl
@[simp] theorem State.poke_hbm (s : State) (k : Nat) (l : List Byte) : (s.poke k l).hbm = s.hbm := rfl
@[simp] theorem State.poke_sinks (s : State) (k : Nat) (l : List Byte) : (s.poke k l).sinks = s.sinks := rfl
@[simp] theorem State.poke_devevt (s : State) (k : Nat) (l : List Byte) : (s.poke k l).devevt = s.devevt := rfl
@[simp] theorem State.poke_msi (s : State) (k : Nat) (l : List Byte) : (s.poke k l).msi = s.msi := rfl
@[simp] theorem State.poke_pkgid (s : State) (k : Nat) (l : List Byte) : (s.poke k l).pkgid = s.pkgid := rfl
@[simp] theorem State.poke_exbase (s : State) (k : Nat) (l : List Byte) : (s.poke k l).exbase = s.exbase := rfl
@[simp] theorem State.poke_started (s : State) (k : Nat) (l : List Byte) : (s.poke k l).started = s.started := rfl
@[simp] theorem State.poke_leases (s : State) (k : Nat) (l : List Byte) : (s.poke k l).leases = s.leases := rfl
@[simp] theorem State.poke_outbox (s : State) (k : Nat) (l : List Byte) : (s.poke k l).outbox = s.outbox := rfl
@[simp] theorem State.poke_replies (s : State) (k : Nat) (l : List Byte) : (s.poke k l).replies = s.replies := rfl
@[simp] theorem State.poke_plim (s : State) (k : Nat) (l : List Byte) : (s.poke k l).plim = s.plim := rfl
@[simp] theorem State.poke_power (s : State) (k : Nat) (l : List Byte) : (s.poke k l).power = s.power := rfl
@[simp] theorem State.poke_temp (s : State) (k : Nat) (l : List Byte) : (s.poke k l).temp = s.temp := rfl
@[simp] theorem State.poke_throt (s : State) (k : Nat) (l : List Byte) : (s.poke k l).throt = s.throt := rfl
@[simp] theorem State.poke_tripped (s : State) (k : Nat) (l : List Byte) : (s.poke k l).tripped = s.tripped := rfl
@[simp] theorem State.poke_released (s : State) (k : Nat) (l : List Byte) : (s.poke k l).released = s.released := rfl
@[simp] theorem State.poke_time (s : State) (k : Nat) (l : List Byte) : (s.poke k l).time = s.time := rfl
@[simp] theorem State.poke_seals (s : State) (k : Nat) (l : List Byte) : (s.poke k l).seals = s.seals := rfl
@[simp] theorem State.poke_evictions (s : State) (k : Nat) (l : List Byte) : (s.poke k l).evictions = s.evictions := rfl
@[simp] theorem State.poke_colo (s : State) (k : Nat) (l : List Byte) : (s.poke k l).colo = s.colo := rfl
@[simp] theorem State.poke_cur (s : State) (k : Nat) (l : List Byte) : (s.poke k l).cur = s.cur := rfl
@[simp] theorem State.poke_agenda (s : State) (k : Nat) (l : List Byte) : (s.poke k l).agenda = s.agenda := rfl
@[simp] theorem State.poke_free (s : State) (k : Nat) (l : List Byte) : (s.poke k l).free = s.free := rfl
@[simp] theorem State.setCore_cores (s : State) (p : Nat) (c : Core) : (s.setCore p c).cores = put s.cores p c := rfl
@[simp] theorem State.setPart_core (s : State) (n : BitVec 4) (q : Part) (p : Nat) : (s.setPart n q).core p = s.core p := rfl
@[simp] theorem State.setCore_part (s : State) (p : Nat) (c : Core) (n : BitVec 4) : (s.setCore p c).part n = s.part n := rfl
@[simp] theorem State.poke_mem (s : State) (k : Nat) (l : List Byte) : (s.poke k l).mem = Memory.setAll s.mem k l := rfl
@[simp] theorem State.poke_core (s : State) (k : Nat) (l : List Byte) (p : Nat) : (s.poke k l).core p = s.core p := rfl
@[simp] theorem Core.setG_seat (c : Core) (i : BitVec 5) (v : Word) : (c.setG i v).seat = c.seat := rfl
@[simp] theorem Core.setG_phase (c : Core) (i : BitVec 5) (v : Word) : (c.setG i v).phase = c.phase := rfl
@[simp] theorem Core.setG_stalled (c : Core) (i : BitVec 5) (v : Word) : (c.setG i v).stalled = c.stalled := rfl
@[simp] theorem Core.setG_trap (c : Core) (i : BitVec 5) (v : Word) : (c.setG i v).trap = c.trap := rfl
@[simp] theorem Core.setG_preempt (c : Core) (i : BitVec 5) (v : Word) : (c.setG i v).preempt = c.preempt := rfl
@[simp] theorem Core.setG_shadow (c : Core) (i : BitVec 5) (v : Word) : (c.setG i v).shadow = c.shadow := rfl
@[simp] theorem Core.setG_mefl (c : Core) (i : BitVec 5) (v : Word) : (c.setG i v).mefl = c.mefl := rfl
@[simp] theorem Core.setG_prqReq (c : Core) (i : BitVec 5) (v : Word) : (c.setG i v).prqReq = c.prqReq := rfl
@[simp] theorem Core.setG_prqSched (c : Core) (i : BitVec 5) (v : Word) : (c.setG i v).prqSched = c.prqSched := rfl
@[simp] theorem Core.setG_stop (c : Core) (i : BitVec 5) (v : Word) : (c.setG i v).stop = c.stop := rfl
@[simp] theorem Core.setG_bpa (c : Core) (i : BitVec 5) (v : Word) : (c.setG i v).bpa = c.bpa := rfl
@[simp] theorem Core.setG_wpa (c : Core) (i : BitVec 5) (v : Word) : (c.setG i v).wpa = c.wpa := rfl
@[simp] theorem Core.setG_dbg (c : Core) (i : BitVec 5) (v : Word) : (c.setG i v).dbg = c.dbg := rfl
@[simp] theorem Core.setG_acc (c : Core) (i : BitVec 5) (v : Word) : (c.setG i v).acc = c.acc := rfl
@[simp] theorem Core.setG_accBad (c : Core) (i : BitVec 5) (v : Word) : (c.setG i v).accBad = c.accBad := rfl
@[simp] theorem Core.setG_icache (c : Core) (i : BitVec 5) (v : Word) : (c.setG i v).icache = c.icache := rfl
@[simp] theorem Core.setG_prof (c : Core) (i : BitVec 5) (v : Word) : (c.setG i v).prof = c.prof := rfl
@[simp] theorem Core.setG_tbuf (c : Core) (i : BitVec 5) (v : Word) : (c.setG i v).tbuf = c.tbuf := rfl
@[simp] theorem Core.setG_tstall (c : Core) (i : BitVec 5) (v : Word) : (c.setG i v).tstall = c.tstall := rfl
@[simp] theorem Core.setP_seat (c : Core) (i : BitVec 3) (v : Bool) : (c.setP i v).seat = c.seat := rfl
@[simp] theorem Core.setP_phase (c : Core) (i : BitVec 3) (v : Bool) : (c.setP i v).phase = c.phase := rfl
@[simp] theorem Core.setP_stalled (c : Core) (i : BitVec 3) (v : Bool) : (c.setP i v).stalled = c.stalled := rfl
@[simp] theorem Core.setP_trap (c : Core) (i : BitVec 3) (v : Bool) : (c.setP i v).trap = c.trap := rfl
@[simp] theorem Core.setP_preempt (c : Core) (i : BitVec 3) (v : Bool) : (c.setP i v).preempt = c.preempt := rfl
@[simp] theorem Core.setP_shadow (c : Core) (i : BitVec 3) (v : Bool) : (c.setP i v).shadow = c.shadow := rfl
@[simp] theorem Core.setP_mefl (c : Core) (i : BitVec 3) (v : Bool) : (c.setP i v).mefl = c.mefl := rfl
@[simp] theorem Core.setP_prqReq (c : Core) (i : BitVec 3) (v : Bool) : (c.setP i v).prqReq = c.prqReq := rfl
@[simp] theorem Core.setP_prqSched (c : Core) (i : BitVec 3) (v : Bool) : (c.setP i v).prqSched = c.prqSched := rfl
@[simp] theorem Core.setP_stop (c : Core) (i : BitVec 3) (v : Bool) : (c.setP i v).stop = c.stop := rfl
@[simp] theorem Core.setP_bpa (c : Core) (i : BitVec 3) (v : Bool) : (c.setP i v).bpa = c.bpa := rfl
@[simp] theorem Core.setP_wpa (c : Core) (i : BitVec 3) (v : Bool) : (c.setP i v).wpa = c.wpa := rfl
@[simp] theorem Core.setP_dbg (c : Core) (i : BitVec 3) (v : Bool) : (c.setP i v).dbg = c.dbg := rfl
@[simp] theorem Core.setP_acc (c : Core) (i : BitVec 3) (v : Bool) : (c.setP i v).acc = c.acc := rfl
@[simp] theorem Core.setP_accBad (c : Core) (i : BitVec 3) (v : Bool) : (c.setP i v).accBad = c.accBad := rfl
@[simp] theorem Core.setP_bad (c : Core) (i : BitVec 3) (v : Bool) : (c.setP i v).bad = c.bad := rfl
@[simp] theorem Core.setP_icache (c : Core) (i : BitVec 3) (v : Bool) : (c.setP i v).icache = c.icache := rfl
@[simp] theorem Core.setP_prof (c : Core) (i : BitVec 3) (v : Bool) : (c.setP i v).prof = c.prof := rfl
@[simp] theorem Core.setP_tbuf (c : Core) (i : BitVec 3) (v : Bool) : (c.setP i v).tbuf = c.tbuf := rfl
@[simp] theorem Core.setP_tstall (c : Core) (i : BitVec 3) (v : Bool) : (c.setP i v).tstall = c.tstall := rfl
@[simp] theorem Core.warn_seat (c : Core) (w : Nat) : (c.warn w).seat = c.seat := rfl
@[simp] theorem Core.warn_phase (c : Core) (w : Nat) : (c.warn w).phase = c.phase := rfl
@[simp] theorem Core.warn_stalled (c : Core) (w : Nat) : (c.warn w).stalled = c.stalled := rfl
@[simp] theorem Core.warn_trap (c : Core) (w : Nat) : (c.warn w).trap = c.trap := rfl
@[simp] theorem Core.warn_preempt (c : Core) (w : Nat) : (c.warn w).preempt = c.preempt := rfl
@[simp] theorem Core.warn_shadow (c : Core) (w : Nat) : (c.warn w).shadow = c.shadow := rfl
@[simp] theorem Core.warn_mefl (c : Core) (w : Nat) : (c.warn w).mefl = c.mefl := rfl
@[simp] theorem Core.warn_prqReq (c : Core) (w : Nat) : (c.warn w).prqReq = c.prqReq := rfl
@[simp] theorem Core.warn_prqSched (c : Core) (w : Nat) : (c.warn w).prqSched = c.prqSched := rfl
@[simp] theorem Core.warn_stop (c : Core) (w : Nat) : (c.warn w).stop = c.stop := rfl
@[simp] theorem Core.warn_bpa (c : Core) (w : Nat) : (c.warn w).bpa = c.bpa := rfl
@[simp] theorem Core.warn_wpa (c : Core) (w : Nat) : (c.warn w).wpa = c.wpa := rfl
@[simp] theorem Core.warn_dbg (c : Core) (w : Nat) : (c.warn w).dbg = c.dbg := rfl
@[simp] theorem Core.warn_acc (c : Core) (w : Nat) : (c.warn w).acc = c.acc := rfl
@[simp] theorem Core.warn_accBad (c : Core) (w : Nat) : (c.warn w).accBad = c.accBad := rfl
@[simp] theorem Core.warn_bad (c : Core) (w : Nat) : (c.warn w).bad = c.bad := rfl
@[simp] theorem Core.warn_icache (c : Core) (w : Nat) : (c.warn w).icache = c.icache := rfl
@[simp] theorem Core.warn_prof (c : Core) (w : Nat) : (c.warn w).prof = c.prof := rfl
@[simp] theorem Core.warn_tbuf (c : Core) (w : Nat) : (c.warn w).tbuf = c.tbuf := rfl
@[simp] theorem Core.warn_tstall (c : Core) (w : Nat) : (c.warn w).tstall = c.tstall := rfl
@[simp] theorem Core.setG_ctx (c : Core) (i : BitVec 5) (v : Word) : (c.setG i v).ctx = c.ctx.setG i v := rfl
@[simp] theorem Core.setP_ctx (c : Core) (i : BitVec 3) (v : Bool) : (c.setP i v).ctx = c.ctx.setP i v := rfl
@[simp] theorem Core.warn_ctx_pc (c : Core) (w : Nat) : (c.warn w).ctx.pc = c.ctx.pc := rfl
@[simp] theorem Core.warn_ctx_mode (c : Core) (w : Nat) : (c.warn w).ctx.mode = c.ctx.mode := rfl
@[simp] theorem Core.warn_ctx_g (c : Core) (w : Nat) : (c.warn w).ctx.g = c.ctx.g := rfl
@[simp] theorem Core.warn_ctx_p (c : Core) (w : Nat) : (c.warn w).ctx.p = c.ctx.p := rfl
@[simp] theorem Core.warn_ctx_spill (c : Core) (w : Nat) : (c.warn w).ctx.spill = c.ctx.spill := rfl
@[simp] theorem Core.warn_ctx_loops (c : Core) (w : Nat) : (c.warn w).ctx.loops = c.ctx.loops := rfl
@[simp] theorem Core.warn_ctx_order (c : Core) (w : Nat) : (c.warn w).ctx.order = c.ctx.order := rfl
@[simp] theorem Core.warn_ctx_args (c : Core) (w : Nat) : (c.warn w).ctx.args = c.ctx.args := rfl
@[simp] theorem Core.warn_ctx_tcb (c : Core) (w : Nat) : (c.warn w).ctx.tcb = c.ctx.tcb := rfl
@[simp] theorem Core.warn_ctx_vufl (c : Core) (w : Nat) : (c.warn w).ctx.vufl = c.ctx.vufl := rfl
@[simp] theorem Core.warn_ctx_tcause (c : Core) (w : Nat) : (c.warn w).ctx.tcause = c.ctx.tcause := rfl
@[simp] theorem Core.warn_ctx_tpc (c : Core) (w : Nat) : (c.warn w).ctx.tpc = c.ctx.tpc := rfl
@[simp] theorem Core.warn_ctx_tinfo (c : Core) (w : Nat) : (c.warn w).ctx.tinfo = c.ctx.tinfo := rfl
@[simp] theorem Core.warn_ctx_taddr (c : Core) (w : Nat) : (c.warn w).ctx.taddr = c.ctx.taddr := rfl
@[simp] theorem Core.warn_ctx_tvec (c : Core) (w : Nat) : (c.warn w).ctx.tvec = c.ctx.tvec := rfl
@[simp] theorem Core.warn_ctx_tsave (c : Core) (w : Nat) : (c.warn w).ctx.tsave = c.ctx.tsave := rfl
@[simp] theorem Core.warn_ctx_cut (c : Core) (w : Nat) : (c.warn w).ctx.cut = c.ctx.cut := rfl
@[simp] theorem Core.warn_ctx_tentry (c : Core) (w : Nat) : (c.warn w).ctx.tentry = c.ctx.tentry := rfl
@[simp] theorem Core.warn_ctx_tseq (c : Core) (w : Nat) : (c.warn w).ctx.tseq = c.ctx.tseq := rfl
@[simp] theorem Core.warn_ctx_words (c : Core) (w : Nat) : (c.warn w).ctx.words = c.ctx.words := rfl
@[simp] theorem Core.warn_ctx_vu (c : Core) (w : Nat) : (c.warn w).ctx.vu = c.ctx.vu := rfl
@[simp] theorem Core.warn_ctx_sq (c : Core) (w : Nat) : (c.warn w).ctx.sq = c.ctx.sq := rfl
@[simp] theorem Core.warn_ctx_lq (c : Core) (w : Nat) : (c.warn w).ctx.lq = c.ctx.lq := rfl
@[simp] theorem Core.warn_ctx_loads (c : Core) (w : Nat) : (c.warn w).ctx.loads = c.ctx.loads := rfl
@[simp] theorem Core.warn_ctx_seq (c : Core) (w : Nat) : (c.warn w).ctx.seq = c.ctx.seq := rfl
@[simp] theorem Core.warn_ctx_tok (c : Core) (w : Nat) : (c.warn w).ctx.tok = c.ctx.tok := rfl
@[simp] theorem Core.warn_ctx_bars (c : Core) (w : Nat) : (c.warn w).ctx.bars = c.ctx.bars := rfl
@[simp] theorem Core.warn_ctx_fslots (c : Core) (w : Nat) : (c.warn w).ctx.fslots = c.ctx.fslots := rfl
@[simp] theorem Core.warn_ctx_me (c : Core) (w : Nat) : (c.warn w).ctx.me = c.ctx.me := rfl
@[simp] theorem Core.warn_ctx_ctab (c : Core) (w : Nat) : (c.warn w).ctx.ctab = c.ctx.ctab := rfl
@[simp] theorem Core.warn_ctx_engMe (c : Core) (w : Nat) : (c.warn w).ctx.engMe = c.ctx.engMe := rfl
@[simp] theorem Core.warn_ctx_engWs (c : Core) (w : Nat) : (c.warn w).ctx.engWs = c.ctx.engWs := rfl
@[simp] theorem Core.warn_ctx_engCe (c : Core) (w : Nat) : (c.warn w).ctx.engCe = c.ctx.engCe := rfl
@[simp] theorem Core.warn_ctx_engBank (c : Core) (w : Nat) : (c.warn w).ctx.engBank = c.ctx.engBank := rfl
@[simp] theorem Core.warn_ctx_ceid (c : Core) (w : Nat) : (c.warn w).ctx.ceid = c.ctx.ceid := rfl
@[simp] theorem Core.warn_ctx_mp (c : Core) (w : Nat) : (c.warn w).ctx.mp = c.ctx.mp := rfl
@[simp] theorem Core.warn_ctx_mpAhead (c : Core) (w : Nat) : (c.warn w).ctx.mpAhead = c.ctx.mpAhead := rfl
@[simp] theorem Core.warn_ctx_sched (c : Core) (w : Nat) : (c.warn w).ctx.sched = c.ctx.sched := rfl
@[simp] theorem Ctx.setLoop_pc (x : Ctx) (i : BitVec 2) (l : Loop) : (x.setLoop i l).pc = x.pc := rfl
@[simp] theorem Ctx.setLoop_mode (x : Ctx) (i : BitVec 2) (l : Loop) : (x.setLoop i l).mode = x.mode := rfl
@[simp] theorem Ctx.setLoop_g (x : Ctx) (i : BitVec 2) (l : Loop) : (x.setLoop i l).g = x.g := rfl
@[simp] theorem Ctx.setLoop_p (x : Ctx) (i : BitVec 2) (l : Loop) : (x.setLoop i l).p = x.p := rfl
@[simp] theorem Ctx.setLoop_spill (x : Ctx) (i : BitVec 2) (l : Loop) : (x.setLoop i l).spill = x.spill := rfl
@[simp] theorem Ctx.setLoop_order (x : Ctx) (i : BitVec 2) (l : Loop) : (x.setLoop i l).order = x.order := rfl
@[simp] theorem Ctx.setLoop_args (x : Ctx) (i : BitVec 2) (l : Loop) : (x.setLoop i l).args = x.args := rfl
@[simp] theorem Ctx.setLoop_tcb (x : Ctx) (i : BitVec 2) (l : Loop) : (x.setLoop i l).tcb = x.tcb := rfl
@[simp] theorem Ctx.setLoop_warn (x : Ctx) (i : BitVec 2) (l : Loop) : (x.setLoop i l).warn = x.warn := rfl
@[simp] theorem Ctx.setLoop_vufl (x : Ctx) (i : BitVec 2) (l : Loop) : (x.setLoop i l).vufl = x.vufl := rfl
@[simp] theorem Ctx.setLoop_tcause (x : Ctx) (i : BitVec 2) (l : Loop) : (x.setLoop i l).tcause = x.tcause := rfl
@[simp] theorem Ctx.setLoop_tpc (x : Ctx) (i : BitVec 2) (l : Loop) : (x.setLoop i l).tpc = x.tpc := rfl
@[simp] theorem Ctx.setLoop_tinfo (x : Ctx) (i : BitVec 2) (l : Loop) : (x.setLoop i l).tinfo = x.tinfo := rfl
@[simp] theorem Ctx.setLoop_taddr (x : Ctx) (i : BitVec 2) (l : Loop) : (x.setLoop i l).taddr = x.taddr := rfl
@[simp] theorem Ctx.setLoop_tvec (x : Ctx) (i : BitVec 2) (l : Loop) : (x.setLoop i l).tvec = x.tvec := rfl
@[simp] theorem Ctx.setLoop_tsave (x : Ctx) (i : BitVec 2) (l : Loop) : (x.setLoop i l).tsave = x.tsave := rfl
@[simp] theorem Ctx.setLoop_cut (x : Ctx) (i : BitVec 2) (l : Loop) : (x.setLoop i l).cut = x.cut := rfl
@[simp] theorem Ctx.setLoop_tentry (x : Ctx) (i : BitVec 2) (l : Loop) : (x.setLoop i l).tentry = x.tentry := rfl
@[simp] theorem Ctx.setLoop_tseq (x : Ctx) (i : BitVec 2) (l : Loop) : (x.setLoop i l).tseq = x.tseq := rfl
@[simp] theorem Ctx.setLoop_words (x : Ctx) (i : BitVec 2) (l : Loop) : (x.setLoop i l).words = x.words := rfl
@[simp] theorem Ctx.setLoop_vu (x : Ctx) (i : BitVec 2) (l : Loop) : (x.setLoop i l).vu = x.vu := rfl
@[simp] theorem Ctx.setLoop_sq (x : Ctx) (i : BitVec 2) (l : Loop) : (x.setLoop i l).sq = x.sq := rfl
@[simp] theorem Ctx.setLoop_lq (x : Ctx) (i : BitVec 2) (l : Loop) : (x.setLoop i l).lq = x.lq := rfl
@[simp] theorem Ctx.setLoop_loads (x : Ctx) (i : BitVec 2) (l : Loop) : (x.setLoop i l).loads = x.loads := rfl
@[simp] theorem Ctx.setLoop_seq (x : Ctx) (i : BitVec 2) (l : Loop) : (x.setLoop i l).seq = x.seq := rfl
@[simp] theorem Ctx.setLoop_tok (x : Ctx) (i : BitVec 2) (l : Loop) : (x.setLoop i l).tok = x.tok := rfl
@[simp] theorem Ctx.setLoop_bars (x : Ctx) (i : BitVec 2) (l : Loop) : (x.setLoop i l).bars = x.bars := rfl
@[simp] theorem Ctx.setLoop_fslots (x : Ctx) (i : BitVec 2) (l : Loop) : (x.setLoop i l).fslots = x.fslots := rfl
@[simp] theorem Ctx.setLoop_me (x : Ctx) (i : BitVec 2) (l : Loop) : (x.setLoop i l).me = x.me := rfl
@[simp] theorem Ctx.setLoop_ctab (x : Ctx) (i : BitVec 2) (l : Loop) : (x.setLoop i l).ctab = x.ctab := rfl
@[simp] theorem Ctx.setLoop_engMe (x : Ctx) (i : BitVec 2) (l : Loop) : (x.setLoop i l).engMe = x.engMe := rfl
@[simp] theorem Ctx.setLoop_engWs (x : Ctx) (i : BitVec 2) (l : Loop) : (x.setLoop i l).engWs = x.engWs := rfl
@[simp] theorem Ctx.setLoop_engCe (x : Ctx) (i : BitVec 2) (l : Loop) : (x.setLoop i l).engCe = x.engCe := rfl
@[simp] theorem Ctx.setLoop_engBank (x : Ctx) (i : BitVec 2) (l : Loop) : (x.setLoop i l).engBank = x.engBank := rfl
@[simp] theorem Ctx.setLoop_ceid (x : Ctx) (i : BitVec 2) (l : Loop) : (x.setLoop i l).ceid = x.ceid := rfl
@[simp] theorem Ctx.setLoop_mp (x : Ctx) (i : BitVec 2) (l : Loop) : (x.setLoop i l).mp = x.mp := rfl
@[simp] theorem Ctx.setLoop_mpAhead (x : Ctx) (i : BitVec 2) (l : Loop) : (x.setLoop i l).mpAhead = x.mpAhead := rfl
@[simp] theorem Ctx.setLoop_sched (x : Ctx) (i : BitVec 2) (l : Loop) : (x.setLoop i l).sched = x.sched := rfl
@[simp] theorem Ctx.setG_pc (x : Ctx) (i : BitVec 5) (v : Word) : (x.setG i v).pc = x.pc := by unfold Ctx.setG; split <;> rfl
@[simp] theorem Ctx.setG_mode (x : Ctx) (i : BitVec 5) (v : Word) : (x.setG i v).mode = x.mode := by unfold Ctx.setG; split <;> rfl
@[simp] theorem Ctx.setG_p (x : Ctx) (i : BitVec 5) (v : Word) : (x.setG i v).p = x.p := by unfold Ctx.setG; split <;> rfl
@[simp] theorem Ctx.setG_spill (x : Ctx) (i : BitVec 5) (v : Word) : (x.setG i v).spill = x.spill := by unfold Ctx.setG; split <;> rfl
@[simp] theorem Ctx.setG_loops (x : Ctx) (i : BitVec 5) (v : Word) : (x.setG i v).loops = x.loops := by unfold Ctx.setG; split <;> rfl
@[simp] theorem Ctx.setG_order (x : Ctx) (i : BitVec 5) (v : Word) : (x.setG i v).order = x.order := by unfold Ctx.setG; split <;> rfl
@[simp] theorem Ctx.setG_args (x : Ctx) (i : BitVec 5) (v : Word) : (x.setG i v).args = x.args := by unfold Ctx.setG; split <;> rfl
@[simp] theorem Ctx.setG_tcb (x : Ctx) (i : BitVec 5) (v : Word) : (x.setG i v).tcb = x.tcb := by unfold Ctx.setG; split <;> rfl
@[simp] theorem Ctx.setG_warn (x : Ctx) (i : BitVec 5) (v : Word) : (x.setG i v).warn = x.warn := by unfold Ctx.setG; split <;> rfl
@[simp] theorem Ctx.setG_vufl (x : Ctx) (i : BitVec 5) (v : Word) : (x.setG i v).vufl = x.vufl := by unfold Ctx.setG; split <;> rfl
@[simp] theorem Ctx.setG_tcause (x : Ctx) (i : BitVec 5) (v : Word) : (x.setG i v).tcause = x.tcause := by unfold Ctx.setG; split <;> rfl
@[simp] theorem Ctx.setG_tpc (x : Ctx) (i : BitVec 5) (v : Word) : (x.setG i v).tpc = x.tpc := by unfold Ctx.setG; split <;> rfl
@[simp] theorem Ctx.setG_tinfo (x : Ctx) (i : BitVec 5) (v : Word) : (x.setG i v).tinfo = x.tinfo := by unfold Ctx.setG; split <;> rfl
@[simp] theorem Ctx.setG_taddr (x : Ctx) (i : BitVec 5) (v : Word) : (x.setG i v).taddr = x.taddr := by unfold Ctx.setG; split <;> rfl
@[simp] theorem Ctx.setG_tvec (x : Ctx) (i : BitVec 5) (v : Word) : (x.setG i v).tvec = x.tvec := by unfold Ctx.setG; split <;> rfl
@[simp] theorem Ctx.setG_tsave (x : Ctx) (i : BitVec 5) (v : Word) : (x.setG i v).tsave = x.tsave := by unfold Ctx.setG; split <;> rfl
@[simp] theorem Ctx.setG_cut (x : Ctx) (i : BitVec 5) (v : Word) : (x.setG i v).cut = x.cut := by unfold Ctx.setG; split <;> rfl
@[simp] theorem Ctx.setG_tentry (x : Ctx) (i : BitVec 5) (v : Word) : (x.setG i v).tentry = x.tentry := by unfold Ctx.setG; split <;> rfl
@[simp] theorem Ctx.setG_tseq (x : Ctx) (i : BitVec 5) (v : Word) : (x.setG i v).tseq = x.tseq := by unfold Ctx.setG; split <;> rfl
@[simp] theorem Ctx.setG_words (x : Ctx) (i : BitVec 5) (v : Word) : (x.setG i v).words = x.words := by unfold Ctx.setG; split <;> rfl
@[simp] theorem Ctx.setG_vu (x : Ctx) (i : BitVec 5) (v : Word) : (x.setG i v).vu = x.vu := by unfold Ctx.setG; split <;> rfl
@[simp] theorem Ctx.setG_sq (x : Ctx) (i : BitVec 5) (v : Word) : (x.setG i v).sq = x.sq := by unfold Ctx.setG; split <;> rfl
@[simp] theorem Ctx.setG_lq (x : Ctx) (i : BitVec 5) (v : Word) : (x.setG i v).lq = x.lq := by unfold Ctx.setG; split <;> rfl
@[simp] theorem Ctx.setG_loads (x : Ctx) (i : BitVec 5) (v : Word) : (x.setG i v).loads = x.loads := by unfold Ctx.setG; split <;> rfl
@[simp] theorem Ctx.setG_seq (x : Ctx) (i : BitVec 5) (v : Word) : (x.setG i v).seq = x.seq := by unfold Ctx.setG; split <;> rfl
@[simp] theorem Ctx.setG_tok (x : Ctx) (i : BitVec 5) (v : Word) : (x.setG i v).tok = x.tok := by unfold Ctx.setG; split <;> rfl
@[simp] theorem Ctx.setG_bars (x : Ctx) (i : BitVec 5) (v : Word) : (x.setG i v).bars = x.bars := by unfold Ctx.setG; split <;> rfl
@[simp] theorem Ctx.setG_fslots (x : Ctx) (i : BitVec 5) (v : Word) : (x.setG i v).fslots = x.fslots := by unfold Ctx.setG; split <;> rfl
@[simp] theorem Ctx.setG_me (x : Ctx) (i : BitVec 5) (v : Word) : (x.setG i v).me = x.me := by unfold Ctx.setG; split <;> rfl
@[simp] theorem Ctx.setG_ctab (x : Ctx) (i : BitVec 5) (v : Word) : (x.setG i v).ctab = x.ctab := by unfold Ctx.setG; split <;> rfl
@[simp] theorem Ctx.setG_engMe (x : Ctx) (i : BitVec 5) (v : Word) : (x.setG i v).engMe = x.engMe := by unfold Ctx.setG; split <;> rfl
@[simp] theorem Ctx.setG_engWs (x : Ctx) (i : BitVec 5) (v : Word) : (x.setG i v).engWs = x.engWs := by unfold Ctx.setG; split <;> rfl
@[simp] theorem Ctx.setG_engCe (x : Ctx) (i : BitVec 5) (v : Word) : (x.setG i v).engCe = x.engCe := by unfold Ctx.setG; split <;> rfl
@[simp] theorem Ctx.setG_engBank (x : Ctx) (i : BitVec 5) (v : Word) : (x.setG i v).engBank = x.engBank := by unfold Ctx.setG; split <;> rfl
@[simp] theorem Ctx.setG_ceid (x : Ctx) (i : BitVec 5) (v : Word) : (x.setG i v).ceid = x.ceid := by unfold Ctx.setG; split <;> rfl
@[simp] theorem Ctx.setG_mp (x : Ctx) (i : BitVec 5) (v : Word) : (x.setG i v).mp = x.mp := by unfold Ctx.setG; split <;> rfl
@[simp] theorem Ctx.setG_mpAhead (x : Ctx) (i : BitVec 5) (v : Word) : (x.setG i v).mpAhead = x.mpAhead := by unfold Ctx.setG; split <;> rfl
@[simp] theorem Ctx.setG_sched (x : Ctx) (i : BitVec 5) (v : Word) : (x.setG i v).sched = x.sched := by unfold Ctx.setG; split <;> rfl
@[simp] theorem Ctx.setP_pc (x : Ctx) (i : BitVec 3) (v : Bool) : (x.setP i v).pc = x.pc := by unfold Ctx.setP; split <;> rfl
@[simp] theorem Ctx.setP_mode (x : Ctx) (i : BitVec 3) (v : Bool) : (x.setP i v).mode = x.mode := by unfold Ctx.setP; split <;> rfl
@[simp] theorem Ctx.setP_g (x : Ctx) (i : BitVec 3) (v : Bool) : (x.setP i v).g = x.g := by unfold Ctx.setP; split <;> rfl
@[simp] theorem Ctx.setP_spill (x : Ctx) (i : BitVec 3) (v : Bool) : (x.setP i v).spill = x.spill := by unfold Ctx.setP; split <;> rfl
@[simp] theorem Ctx.setP_loops (x : Ctx) (i : BitVec 3) (v : Bool) : (x.setP i v).loops = x.loops := by unfold Ctx.setP; split <;> rfl
@[simp] theorem Ctx.setP_order (x : Ctx) (i : BitVec 3) (v : Bool) : (x.setP i v).order = x.order := by unfold Ctx.setP; split <;> rfl
@[simp] theorem Ctx.setP_args (x : Ctx) (i : BitVec 3) (v : Bool) : (x.setP i v).args = x.args := by unfold Ctx.setP; split <;> rfl
@[simp] theorem Ctx.setP_tcb (x : Ctx) (i : BitVec 3) (v : Bool) : (x.setP i v).tcb = x.tcb := by unfold Ctx.setP; split <;> rfl
@[simp] theorem Ctx.setP_warn (x : Ctx) (i : BitVec 3) (v : Bool) : (x.setP i v).warn = x.warn := by unfold Ctx.setP; split <;> rfl
@[simp] theorem Ctx.setP_vufl (x : Ctx) (i : BitVec 3) (v : Bool) : (x.setP i v).vufl = x.vufl := by unfold Ctx.setP; split <;> rfl
@[simp] theorem Ctx.setP_tcause (x : Ctx) (i : BitVec 3) (v : Bool) : (x.setP i v).tcause = x.tcause := by unfold Ctx.setP; split <;> rfl
@[simp] theorem Ctx.setP_tpc (x : Ctx) (i : BitVec 3) (v : Bool) : (x.setP i v).tpc = x.tpc := by unfold Ctx.setP; split <;> rfl
@[simp] theorem Ctx.setP_tinfo (x : Ctx) (i : BitVec 3) (v : Bool) : (x.setP i v).tinfo = x.tinfo := by unfold Ctx.setP; split <;> rfl
@[simp] theorem Ctx.setP_taddr (x : Ctx) (i : BitVec 3) (v : Bool) : (x.setP i v).taddr = x.taddr := by unfold Ctx.setP; split <;> rfl
@[simp] theorem Ctx.setP_tvec (x : Ctx) (i : BitVec 3) (v : Bool) : (x.setP i v).tvec = x.tvec := by unfold Ctx.setP; split <;> rfl
@[simp] theorem Ctx.setP_tsave (x : Ctx) (i : BitVec 3) (v : Bool) : (x.setP i v).tsave = x.tsave := by unfold Ctx.setP; split <;> rfl
@[simp] theorem Ctx.setP_cut (x : Ctx) (i : BitVec 3) (v : Bool) : (x.setP i v).cut = x.cut := by unfold Ctx.setP; split <;> rfl
@[simp] theorem Ctx.setP_tentry (x : Ctx) (i : BitVec 3) (v : Bool) : (x.setP i v).tentry = x.tentry := by unfold Ctx.setP; split <;> rfl
@[simp] theorem Ctx.setP_tseq (x : Ctx) (i : BitVec 3) (v : Bool) : (x.setP i v).tseq = x.tseq := by unfold Ctx.setP; split <;> rfl
@[simp] theorem Ctx.setP_words (x : Ctx) (i : BitVec 3) (v : Bool) : (x.setP i v).words = x.words := by unfold Ctx.setP; split <;> rfl
@[simp] theorem Ctx.setP_vu (x : Ctx) (i : BitVec 3) (v : Bool) : (x.setP i v).vu = x.vu := by unfold Ctx.setP; split <;> rfl
@[simp] theorem Ctx.setP_sq (x : Ctx) (i : BitVec 3) (v : Bool) : (x.setP i v).sq = x.sq := by unfold Ctx.setP; split <;> rfl
@[simp] theorem Ctx.setP_lq (x : Ctx) (i : BitVec 3) (v : Bool) : (x.setP i v).lq = x.lq := by unfold Ctx.setP; split <;> rfl
@[simp] theorem Ctx.setP_loads (x : Ctx) (i : BitVec 3) (v : Bool) : (x.setP i v).loads = x.loads := by unfold Ctx.setP; split <;> rfl
@[simp] theorem Ctx.setP_seq (x : Ctx) (i : BitVec 3) (v : Bool) : (x.setP i v).seq = x.seq := by unfold Ctx.setP; split <;> rfl
@[simp] theorem Ctx.setP_tok (x : Ctx) (i : BitVec 3) (v : Bool) : (x.setP i v).tok = x.tok := by unfold Ctx.setP; split <;> rfl
@[simp] theorem Ctx.setP_bars (x : Ctx) (i : BitVec 3) (v : Bool) : (x.setP i v).bars = x.bars := by unfold Ctx.setP; split <;> rfl
@[simp] theorem Ctx.setP_fslots (x : Ctx) (i : BitVec 3) (v : Bool) : (x.setP i v).fslots = x.fslots := by unfold Ctx.setP; split <;> rfl
@[simp] theorem Ctx.setP_me (x : Ctx) (i : BitVec 3) (v : Bool) : (x.setP i v).me = x.me := by unfold Ctx.setP; split <;> rfl
@[simp] theorem Ctx.setP_ctab (x : Ctx) (i : BitVec 3) (v : Bool) : (x.setP i v).ctab = x.ctab := by unfold Ctx.setP; split <;> rfl
@[simp] theorem Ctx.setP_engMe (x : Ctx) (i : BitVec 3) (v : Bool) : (x.setP i v).engMe = x.engMe := by unfold Ctx.setP; split <;> rfl
@[simp] theorem Ctx.setP_engWs (x : Ctx) (i : BitVec 3) (v : Bool) : (x.setP i v).engWs = x.engWs := by unfold Ctx.setP; split <;> rfl
@[simp] theorem Ctx.setP_engCe (x : Ctx) (i : BitVec 3) (v : Bool) : (x.setP i v).engCe = x.engCe := by unfold Ctx.setP; split <;> rfl
@[simp] theorem Ctx.setP_engBank (x : Ctx) (i : BitVec 3) (v : Bool) : (x.setP i v).engBank = x.engBank := by unfold Ctx.setP; split <;> rfl
@[simp] theorem Ctx.setP_ceid (x : Ctx) (i : BitVec 3) (v : Bool) : (x.setP i v).ceid = x.ceid := by unfold Ctx.setP; split <;> rfl
@[simp] theorem Ctx.setP_mp (x : Ctx) (i : BitVec 3) (v : Bool) : (x.setP i v).mp = x.mp := by unfold Ctx.setP; split <;> rfl
@[simp] theorem Ctx.setP_mpAhead (x : Ctx) (i : BitVec 3) (v : Bool) : (x.setP i v).mpAhead = x.mpAhead := by unfold Ctx.setP; split <;> rfl
@[simp] theorem Ctx.setP_sched (x : Ctx) (i : BitVec 3) (v : Bool) : (x.setP i v).sched = x.sched := by unfold Ctx.setP; split <;> rfl
@[simp] theorem State.setCore_portErrs (s : State) (p : Nat) (c : Core) : (s.setCore p c).portErrs = s.portErrs := rfl
@[simp] theorem State.setCore_product (s : State) (p : Nat) (c : Core) : (s.setCore p c).product = s.product := rfl
@[simp] theorem State.setCore_therm (s : State) (p : Nat) (c : Core) : (s.setCore p c).therm = s.therm := rfl
@[simp] theorem State.setCore_cold (s : State) (p : Nat) (c : Core) : (s.setCore p c).cold = s.cold := rfl
@[simp] theorem State.setCore_coldest (s : State) (p : Nat) (c : Core) : (s.setCore p c).coldest = s.coldest := rfl
@[simp] theorem State.mapCore_portErrs (s : State) (p : Nat) (f : Core → Core) : (s.mapCore p f).portErrs = s.portErrs := rfl
@[simp] theorem State.mapCore_product (s : State) (p : Nat) (f : Core → Core) : (s.mapCore p f).product = s.product := rfl
@[simp] theorem State.mapCore_therm (s : State) (p : Nat) (f : Core → Core) : (s.mapCore p f).therm = s.therm := rfl
@[simp] theorem State.mapCore_cold (s : State) (p : Nat) (f : Core → Core) : (s.mapCore p f).cold = s.cold := rfl
@[simp] theorem State.mapCore_coldest (s : State) (p : Nat) (f : Core → Core) : (s.mapCore p f).coldest = s.coldest := rfl
@[simp] theorem State.setPart_portErrs (s : State) (n : BitVec 4) (q : Part) : (s.setPart n q).portErrs = s.portErrs := rfl
@[simp] theorem State.setPart_product (s : State) (n : BitVec 4) (q : Part) : (s.setPart n q).product = s.product := rfl
@[simp] theorem State.setPart_therm (s : State) (n : BitVec 4) (q : Part) : (s.setPart n q).therm = s.therm := rfl
@[simp] theorem State.setPart_cold (s : State) (n : BitVec 4) (q : Part) : (s.setPart n q).cold = s.cold := rfl
@[simp] theorem State.setPart_coldest (s : State) (n : BitVec 4) (q : Part) : (s.setPart n q).coldest = s.coldest := rfl
@[simp] theorem State.poke_portErrs (s : State) (k : Nat) (l : List Byte) : (s.poke k l).portErrs = s.portErrs := rfl
@[simp] theorem State.poke_product (s : State) (k : Nat) (l : List Byte) : (s.poke k l).product = s.product := rfl
@[simp] theorem State.poke_therm (s : State) (k : Nat) (l : List Byte) : (s.poke k l).therm = s.therm := rfl
@[simp] theorem State.poke_cold (s : State) (k : Nat) (l : List Byte) : (s.poke k l).cold = s.cold := rfl
@[simp] theorem State.poke_coldest (s : State) (k : Nat) (l : List Byte) : (s.poke k l).coldest = s.coldest := rfl
@[simp] theorem State.setCore_since (s : State) (p : Nat) (c : Core) : (s.setCore p c).since = s.since := rfl
@[simp] theorem State.setCore_devHeld (s : State) (p : Nat) (c : Core) : (s.setCore p c).devHeld = s.devHeld := rfl
@[simp] theorem State.mapCore_since (s : State) (p : Nat) (f : Core → Core) : (s.mapCore p f).since = s.since := rfl
@[simp] theorem State.mapCore_devHeld (s : State) (p : Nat) (f : Core → Core) : (s.mapCore p f).devHeld = s.devHeld := rfl
@[simp] theorem State.setPart_since (s : State) (n : BitVec 4) (q : Part) : (s.setPart n q).since = s.since := rfl
@[simp] theorem State.setPart_devHeld (s : State) (n : BitVec 4) (q : Part) : (s.setPart n q).devHeld = s.devHeld := rfl
@[simp] theorem State.poke_since (s : State) (k : Nat) (l : List Byte) : (s.poke k l).since = s.since := rfl
@[simp] theorem State.poke_devHeld (s : State) (k : Nat) (l : List Byte) : (s.poke k l).devHeld = s.devHeld := rfl
@[simp] theorem Core.setG_late (c : Core) (i : BitVec 5) (v : Word) : (c.setG i v).late = c.late := rfl
@[simp] theorem Core.setP_late (c : Core) (i : BitVec 3) (v : Bool) : (c.setP i v).late = c.late := rfl
@[simp] theorem Core.warn_late (c : Core) (w : Nat) : (c.warn w).late = c.late := rfl
@[simp] theorem Ctx.setLoop_plan (x : Ctx) (i : BitVec 2) (l : Loop) : (x.setLoop i l).plan = x.plan := rfl
@[simp] theorem Ctx.setG_plan (x : Ctx) (i : BitVec 5) (v : Word) : (x.setG i v).plan = x.plan := by unfold Ctx.setG; split <;> rfl
@[simp] theorem Ctx.setP_plan (x : Ctx) (i : BitVec 3) (v : Bool) : (x.setP i v).plan = x.plan := by unfold Ctx.setP; split <;> rfl

end Sys2Proof.Machine
end

