-- ==== Sys2Proof/Laws/Memory.lean ====
section
/-!
SUPPORT. Laws of the sparse tables and of the byte memory: read after write, and the canonical forms.
-/

namespace Sys2Proof.Machine

/-! ### Tables -/

@[simp] theorem look_put_self {α : Type} (l : List (Nat × α)) (a : Nat) (v : α) : look (put l a v) a = some v := by
  induction l with
  | nil => simp [put, look]
  | cons e t ih =>
    obtain ⟨k, w⟩ := e
    unfold put
    split
    · simp [look]
    · split
      · simp [look]
      · simp only [look]; rw [if_neg (by omega)]; exact ih

theorem look_put_other {α : Type} (l : List (Nat × α)) (a b : Nat) (v : α) (h : b ≠ a) : look (put l a v) b = look l b := by
  induction l with
  | nil => simp [put, look, Ne.symm h]
  | cons e t ih =>
    obtain ⟨k, w⟩ := e
    unfold put
    split
    · simp [look, Ne.symm h]
    · split
      · rename_i hk; subst hk; simp [look, Ne.symm h]
      · simp only [look]; split
        · rfl
        · exact ih

@[simp] theorem State.core_setCore_self (s : State) (p : Nat) (c : Core) : (s.setCore p c).core p = c := by
  simp [State.core, State.setCore]

theorem State.core_setCore_other (s : State) (p q : Nat) (c : Core) (h : q ≠ p) : (s.setCore p c).core q = s.core q := by
  simp [State.core, State.setCore, look_put_other _ _ _ _ h]

@[simp] theorem State.core_mapCore_self (s : State) (p : Nat) (f : Core → Core) : (s.mapCore p f).core p = f (s.core p) := by
  simp [State.mapCore]

theorem State.core_mapCore_other (s : State) (p q : Nat) (f : Core → Core) (h : q ≠ p) : (s.mapCore p f).core q = s.core q := by
  simp [State.mapCore, State.core_setCore_other _ _ _ _ h]

@[simp] theorem put_put {α : Type} (l : List (Nat × α)) (a : Nat) (v w : α) : put (put l a v) a w = put l a w := by
  induction l with
  | nil => simp [put]
  | cons e t ih =>
    obtain ⟨k, u⟩ := e
    by_cases h1 : a < k
    · simp [put, h1]
    · by_cases h2 : a = k
      · simp [put, h2]
      · simp [put, h1, h2, ih]

@[simp] theorem State.setCore_setCore (s : State) (p : Nat) (c d : Core) : (s.setCore p c).setCore p d = s.setCore p d := by
  simp [State.setCore]

@[simp] theorem State.mapCore_setCore (s : State) (p : Nat) (c : Core) (f : Core → Core) :
    (s.setCore p c).mapCore p f = s.setCore p (f c) := by simp [State.mapCore]

@[simp] theorem State.mapCore_mapCore (s : State) (p : Nat) (f g : Core → Core) :
    (s.mapCore p f).mapCore p g = s.mapCore p (fun c => g (f c)) := by simp [State.mapCore]

/-- Keys rise strictly from `lo`. -/
theorem rising_put {α : Type} (l : List (Nat × α)) (lo a : Nat) (v : α) (ha : lo ≤ a) (h : risingFrom lo l = true) :
    risingFrom lo (put l a v) = true := by
  induction l generalizing lo with
  | nil => simp [put, risingFrom, ha]
  | cons e t ih =>
    obtain ⟨k, w⟩ := e
    simp only [risingFrom, Bool.and_eq_true, decide_eq_true_eq] at h
    unfold put
    split
    · simp only [risingFrom, Bool.and_eq_true, decide_eq_true_eq]; exact ⟨ha, by omega, h.2⟩
    · split
      · rename_i hk; subst hk; simp only [risingFrom, Bool.and_eq_true, decide_eq_true_eq]; exact ⟨ha, h.2⟩
      · simp only [risingFrom, Bool.and_eq_true, decide_eq_true_eq]; exact ⟨h.1, ih (k + 1) (by omega) h.2⟩

/-! ### Bytes -/

theorem Memory.get_below (m : List Host.Cell) (lo a : Nat) (h : Memory.wfFrom lo m = true) (ha : a < lo) : Memory.get m a = 0 := by
  induction m generalizing lo with
  | nil => rfl
  | cons e t ih =>
    obtain ⟨k, v⟩ := e
    simp only [Memory.wfFrom, Bool.and_eq_true, decide_eq_true_eq] at h
    simp only [Memory.get]
    rw [if_neg (by omega)]
    exact ih (k + 1) h.2 (by omega)

theorem Memory.get_set_from (m : List Host.Cell) (lo a : Nat) (v : Byte) (h : Memory.wfFrom lo m = true) :
    Memory.get (Memory.set m a v) a = v := by
  induction m generalizing lo with
  | nil => simp only [Memory.set]; split <;> simp_all [Memory.get]
  | cons e t ih =>
    obtain ⟨k, w⟩ := e
    have h' := h
    simp only [Memory.wfFrom, Bool.and_eq_true, decide_eq_true_eq] at h
    unfold Memory.set
    split
    · split
      · rename_i hv; subst hv
        simp only [Memory.get]; rw [if_neg (by omega)]
        exact Memory.get_below t (k + 1) a h.2 (by omega)
      · simp [Memory.get]
    · split
      · split
        · rename_i hk hv; subst hk hv; exact Memory.get_below t (a + 1) a h.2 (by omega)
        · simp [Memory.get]
      · simp only [Memory.get]; rw [if_neg (by omega)]; exact ih (k + 1) h.2

/-- A byte reads back as written. -/
theorem Memory.get_set_self (m : List Host.Cell) (a : Nat) (v : Byte) (h : Memory.wf m = true) :
    Memory.get (Memory.set m a v) a = v := Memory.get_set_from m 0 a v h

/-- A write leaves every other byte alone. -/
theorem Memory.get_set_other (m : List Host.Cell) (a b : Nat) (v : Byte) (h : b ≠ a) :
    Memory.get (Memory.set m a v) b = Memory.get m b := by
  induction m with
  | nil => simp only [Memory.set]; split <;> simp [Memory.get, Ne.symm h]
  | cons e t ih =>
    obtain ⟨k, w⟩ := e
    unfold Memory.set
    split
    · split
      · rfl
      · simp [Memory.get, Ne.symm h]
    · split
      · rename_i hk; subst hk
        split <;> simp [Memory.get, Ne.symm h]
      · simp only [Memory.get]; split
        · rfl
        · exact ih

theorem Memory.wfFrom_mono (m : List Host.Cell) (lo lo' : Nat) (h : Memory.wfFrom lo' m = true) (hl : lo ≤ lo') :
    Memory.wfFrom lo m = true := by
  cases m with
  | nil => rfl
  | cons e t =>
    obtain ⟨k, v⟩ := e
    simp only [Memory.wfFrom, Bool.and_eq_true, decide_eq_true_eq] at h ⊢
    exact ⟨⟨by omega, h.1.2⟩, h.2⟩

theorem Memory.wfFrom_set (m : List Host.Cell) (lo a : Nat) (v : Byte) (ha : lo ≤ a) (h : Memory.wfFrom lo m = true) :
    Memory.wfFrom lo (Memory.set m a v) = true := by
  induction m generalizing lo with
  | nil => simp only [Memory.set]; split <;> simp_all [Memory.wfFrom]
  | cons e t ih =>
    obtain ⟨k, w⟩ := e
    have h' := h
    simp only [Memory.wfFrom, Bool.and_eq_true, decide_eq_true_eq] at h
    unfold Memory.set
    split
    · split
      · exact h'
      · rename_i hk hv
        simp only [Memory.wfFrom, Bool.and_eq_true, decide_eq_true_eq]
        exact ⟨⟨ha, hv⟩, ⟨⟨by omega, h.1.2⟩, h.2⟩⟩
    · split
      · rename_i hk; subst hk
        split
        · exact Memory.wfFrom_mono t lo (a + 1) h.2 (by omega)
        · rename_i hv
          simp only [Memory.wfFrom, Bool.and_eq_true, decide_eq_true_eq]
          exact ⟨⟨ha, hv⟩, h.2⟩
      · simp only [Memory.wfFrom, Bool.and_eq_true, decide_eq_true_eq]
        exact ⟨h.1, ih (k + 1) (by omega) h.2⟩

/-- A write keeps the canonical form. -/
theorem Memory.wf_set (m : List Host.Cell) (a : Nat) (v : Byte) (h : Memory.wf m = true) : Memory.wf (Memory.set m a v) = true :=
  Memory.wfFrom_set m 0 a v (Nat.zero_le a) h

/-- Consecutive writes keep the canonical form. -/
theorem Memory.wf_setAll (l : List Byte) (m : List Host.Cell) (a : Nat) (h : Memory.wf m = true) :
    Memory.wf (Memory.setAll m a l) = true := by
  induction l generalizing m a with
  | nil => exact h
  | cons b t ih => exact ih _ _ (Memory.wf_set m a b h)

/-- Dropping listed bytes keeps the canonical form. -/
theorem Memory.wfFrom_filter (m : List Host.Cell) (lo : Nat) (f : Host.Cell → Bool) (h : Memory.wfFrom lo m = true) :
    Memory.wfFrom lo (m.filter f) = true := by
  induction m generalizing lo with
  | nil => rfl
  | cons e t ih =>
    obtain ⟨k, v⟩ := e
    simp only [Memory.wfFrom, Bool.and_eq_true, decide_eq_true_eq] at h
    simp only [List.filter_cons]
    split
    · simp only [Memory.wfFrom, Bool.and_eq_true, decide_eq_true_eq]; exact ⟨h.1, ih _ h.2⟩
    · exact Memory.wfFrom_mono _ lo (k + 1) (ih _ h.2) (by omega)

/-- A wipe keeps the canonical form. -/
theorem Memory.wf_clear (m : List Host.Cell) (lo hi : Nat) (h : Memory.wf m = true) : Memory.wf (Memory.clear m lo hi) = true :=
  Memory.wfFrom_filter m 0 _ h

/-- Consecutive writes leave the bytes outside them alone. -/
theorem Memory.get_setAll_other (l : List Byte) (m : List Host.Cell) (a b : Nat) (h : b < a ∨ a + l.length ≤ b) :
    Memory.get (Memory.setAll m a l) b = Memory.get m b := by
  induction l generalizing m a with
  | nil => rfl
  | cons c t ih =>
    simp only [List.length_cons] at h
    simp only [Memory.setAll]
    rw [ih (Memory.set m a c) (a + 1) (by omega), Memory.get_set_other m a b c (by omega)]

/-- Consecutive bytes read back as written. -/
theorem Memory.gets_setAll (l : List Byte) (m : List Host.Cell) (a : Nat) (h : Memory.wf m = true) :
    Memory.gets (Memory.setAll m a l) a l.length = l := by
  induction l generalizing m a with
  | nil => rfl
  | cons c t ih =>
    simp only [List.length_cons, Memory.gets, Memory.setAll]
    rw [ih _ _ (Memory.wf_set m a c h), Memory.get_setAll_other t _ (a + 1) a (by omega), Memory.get_set_self m a c h]

/-- A wiped byte reads 0, any other is unchanged. -/
theorem Memory.get_clear (m : List Host.Cell) (lo hi a : Nat) :
    Memory.get (Memory.clear m lo hi) a = if lo ≤ a ∧ a < hi then 0 else Memory.get m a := by
  induction m with
  | nil => simp [Memory.clear, Memory.get]
  | cons e t ih =>
    obtain ⟨k, v⟩ := e
    simp only [Memory.clear, List.filter_cons] at ih ⊢
    split <;> simp only [Memory.get] <;> rw [ih] <;> simp_all <;> split <;> simp_all <;> omega

end Sys2Proof.Machine
end

