-- ==== Sys2Proof/Safety.lean ====
section
/-!
DEFINITION. Safety: what holds of every state that the machine reaches, the conditions under which a word runs normally, and the
terms that the statements use.
-/

namespace Sys2Proof.Machine

/-- Equal machines are equal data: the byte memory is in its canonical form, and the core table lists each core once, in the
order of the numbers. -/
def State.canonical (s : State) : Prop := Memory.wf s.mem = true ∧ risingFrom 0 s.cores = true

/-- The running core. -/
def State.now (s : State) : Core := s.core s.cur

/-- Nothing that a word uses holds an uncorrectable error (R306): the predicates where its guard names one, `reads`, and the loop state where
a body ends with the word. -/
def Core.sound (c : Core) (g : Guard) (reads : List Bad) : Prop :=
  (g.g ≠ 0 → Bad.p ∉ c.bad) ∧ (∀ b ∈ reads, b ∉ c.bad) ∧ c.meetsLoops (c.ctx.pc + 4) = false

/-- A word with guard `g` that reads `reads` begins its own description on a core: its guard is true (R31), and no error in what it reads stops
it (R306). -/
def Core.begins (c : Core) (g : Guard) (reads : List Bad) : Prop :=
  c.passes g = true ∧ (g.g ≠ 0 → Bad.p ∉ c.bad) ∧ ∀ b ∈ reads, b ∉ c.bad

/-- A word with guard `g` that reads `reads` runs its own description on a core to its end: its guard is true (R31), and no error stops it
(R306). -/
def Core.runs (c : Core) (g : Guard) (reads : List Bad) : Prop := c.passes g = true ∧ c.sound g reads

/-- A word that the colophon has not runs its own description (R358). -/
def State.onCore (s : State) (g : Guard) (reads : List Bad) : Prop := s.now.runs g reads ∧ s.cur ≠ Config.colophon

/-- A word that may not run while the queues are held runs its own description (R302, R358): TASK mode, and not the colophon. -/
def State.queues (s : State) (g : Guard) (reads : List Bad) : Prop :=
  s.now.runs g reads ∧ s.now.sys = false ∧ s.cur ≠ Config.colophon

/-! ### How a word ends -/

/-- The state after a word of the running core completes: `f` is what its description does to the core, and the sequencer runs
on in sequence (R68). -/
def State.done (s : State) (f : Core → Core) : State := s.setCore s.cur (f s.now).advance

/-- The same for a word that goes on at address `t` (R68). -/
def State.doneTo (s : State) (t : BitVec 48) (f : Core → Core) : State := s.setCore s.cur ((f s.now).goTo t)

/-- The same for a call or jump to address `t` (R69). -/
def State.doneJump (s : State) (t : BitVec 48) (f : Core → Core) : State := s.setCore s.cur ((f s.now).jumpTo t)

/-- The word `i` completes with a value of property `P` in g[d], and does nothing else but run on. -/
def State.results (s : State) (i : Instr) (d : BitVec 5) (P : Word → Prop) : Prop :=
  ∃ v, P v ∧ exec i s = .next (s.done (·.setG d v))

/-- The word `i` completes with the value `v` in p[d], and does nothing else but run on. -/
def State.decides (s : State) (i : Instr) (d : BitVec 3) (v : Bool) : Prop := exec i s = .next (s.done (·.setP d v))


/-- The word `i` waits: the core stays at it, and nothing else changes. -/
def State.waits (s : State) (i : Instr) : Prop := exec i s = .next (s.mapCore s.cur fun c => { c with stalled := true })

/-- Of the package nothing moved but TIME, which moves forward, and the SYNC records that the sinks owe for it (R319, R322). -/
def State.timed (s u : State) : Prop :=
  u = { s with time := u.time, sinks := u.sinks } ∧ (∀ d : Fin 2, s.time[d] ≤ u.time[d]) ∧
  ∀ i : Fin 17, ∃ l, u.sinks[i] = { s.sinks[i] with sync := s.sinks[i].sync ++ l } ∧ (s.sinks[i].en = false → l = [])

/-- The page tables that the translation of these addresses reads hold no error, corrected or not (R185, R196). The colophon translates
nothing (R358). -/
def State.walksFine (s : State) (vas : List Nat) : Prop :=
  s.cur ≠ Config.colophon → ∀ va ∈ vas, ∀ k ∈ s.entriesOf s.now.seat.part (va / 65536 * 65536), ∀ j ∈ run k 8, s.meet j = .fine

/-- R32: the boundary and the fetch give core `cur` the word `w`, read without a corrected error, and no breakpoint matches. No access is
under way on any core, and fewer words than the agenda's turn allows have run (R231, log 51). -/
def State.reaches (s : State) (w : Code) (corr : List Nat) : Prop :=
  s.agenda = [] ∧ s.tripped = false ∧ s.canRun s.cur = true ∧ s.now.stalled = false ∧ s.now.requestLands = false ∧
  (s.now.ctx.refilling = false ∨ s.now.sys = true) ∧ s.fetch s.cur = .got w corr ∧ (∀ k ∈ corr, s.meet k ≠ .corr) ∧
  (s.now.dbg.armed = true ∨ s.now.breakAt s.now.ctx.pc = none) ∧ (∀ e ∈ s.cores, e.2.late = []) ∧ s.now.late = [] ∧
  s.inTurn = true ∧ s.walksFine [s.now.ctx.pc.toNat]

/-- Nothing of the model's own order stands before a unit that is to move: no agenda, the clocks run, no access of the device's own waits,
and no word is under way (log 3). -/
def State.atRest (s : State) : Prop := s.agenda = [] ∧ s.tripped = false ∧ s.devHeld = false ∧ ∀ e ∈ s.cores, e.2.late = []

/-- No access of the device's own has to wait (R197, R200, R366): no stripe is parity-pending and no channel retrains. -/
def State.deviceGoes (s : State) : Prop := s.devHeld = false ∧ s.hbm.pending = [] ∧ ∀ k ch, s.hbm.chan k ch ≠ .retraining

/-- A message that its sender stamped `sent` has arrived (R319): TIME of both dies is above that, while the clocks run (R353), and nothing
else moved. -/
def State.heard (s u : State) (sent : Nat) : Prop := s.timed u ∧ (s.tripped = false → ∀ d : Fin 2, u.time[d] = max s.time[d] (sent + 1))

/-- A message of the host or of a peer has arrived; the TIME that it carries is free (R319, log 5). -/
def State.hears (s u : State) : Prop := { s with free := s.free + 1 }.heard u (Config.freeWord s.free).toNat

/-- A word has ended so; where an access of the device's own in it must wait, it has not run yet, and its core waits at it (R305, R366). -/
def State.ran (s : State) (o : Out) : Out :=
  match o with
  | .next t => .next (if t.devHeld then s.mapCore s.cur fun c => { c with stalled := true } else t)
  | o => o

/-- No word's bound runs over a register or mask in slot `n` (R21). -/
def Win.quiet (w : Win) (n : Nat) : Prop := w.due ≤ n ∧ ∀ e ∈ w.by_, e.due ≤ n

/-! ### Accesses and traps -/

/-- No earlier access of the running core is under way. -/
def State.still (s : State) : Prop := s.now.ctx.sq = [] ∧ s.now.ctx.lq = [] ∧ s.now.late = []

/-- The `n` bytes from key `k` are free of errors, and no access to them waits (R189, R196, R197). -/
def State.clean (s : State) (k n : Nat) : Prop := ∀ j ∈ run k n, s.meet j = .fine

/-- A write of the `n` bytes from key `k` performs at once, in no unit that is lent out, and corrects nothing (R189, R197, R200, R348,
R365). -/
def State.writable (s : State) (k n : Nat) : Prop :=
  s.clean k n ∧ s.lentOut k = false ∧ s.writeWaits (run k n) = false ∧ s.writeErr (run k n) = none ∧
  (isHbm k = true → s.hbm.rebuilt (run k n) = [])

/-- The little-endian number in the `n` bytes from key `k` (R7). -/
def littleEndian (s : State) (k n : Nat) : Nat := ∑ j ∈ Finset.range n, (Memory.get s.mem (k + j)).toNat * 256 ^ j

/-- The effective address of R59: the base plus the offset in units of the size, modulo 2^64. -/
def isEffAddr (base : Word) (off : BitVec 7) (n : Nat) (ea : Word) : Prop :=
  (ea.toNat : Int) = ((base.toNat : Int) + off.toInt * n) % 2 ^ 64

/-- Core `p` has entered its handler from state `s` for the trap `k`, as R294 says: the trap registers are written, MODE is SYSTEM and
the PC is TVEC; general registers, predicates and spill memory stand. -/
def trapEntered (s t : State) (p : Nat) (k : TrapInfo) (tpc : BitVec 48) : Prop :=
  let c := s.core p
  let u := t.core p
  u.ctx.mode = .system ∧ u.ctx.pc = c.ctx.tvec.setWidth 48 ∧ u.phase = .running ∧ u.trap = none ∧ u.stalled = false ∧
  u.ctx.tcause.toNat = k.cause.code + k.q.toNat * 2 ^ 12 ∧ u.ctx.tpc.toNat = tpc.toNat ∧ u.ctx.tinfo = k.tinfo ∧
  u.ctx.taddr = k.taddr ∧ u.ctx.cut = c.ctx.holdEngines.cutNow ∧ (∀ r, u.rg r = c.rg r) ∧ (∀ r, u.rp r = c.rp r) ∧
  u.ctx.spill = c.ctx.spill ∧ u.ctx.loops = c.ctx.loops ∧ u.ctx.order = c.ctx.order ∧ u.ctx.tsave = c.ctx.tsave ∧
  u.ctx.tvec = c.ctx.tvec

/-- Every unit of core `p` is at its stop (R297), and no `cacc` that waits has its tile (R256). -/
def State.atStop (s : State) (p : Nat) : Prop :=
  let x := (s.core p).ctx
  x.quiet = true ∧ ∀ k ∈ x.engCe.run, k.op = .cacc → k.st = .kept → k.run.parked = none → s.tileFor p k = none

/-- Core `p` takes a trap at once (R294): TASK mode, a handler, no other trap on the way, every unit at its stop. -/
def State.mayEnter (s : State) (p : Nat) : Prop :=
  let c := s.core p
  c.sys = false ∧ c.ctx.tvec ≠ 0 ∧ c.trap = none ∧ s.atStop p

/-- No trace sink is enabled, so no event leaves a record (R323). -/
def State.silent (s : State) : Prop := ∀ i : Fin 17, s.sinks[i].en = false

/-- The waymark at key `k` holds TARGET, COUNT, GEN and AUX (R252). -/
def State.waymarkIs (s : State) (k target count gen aux : Nat) : Prop :=
  littleEndian s k 4 = target ∧ littleEndian s (k + 4) 4 = count ∧ littleEndian s (k + 8) 4 = gen ∧ littleEndian s (k + 12) 4 = aux

/-- Every byte outside the `n` bytes from key `k` reads as before. -/
def sameOutside (s t : State) (k n : Nat) : Prop := ∀ a, a < k ∨ k + n ≤ a → Memory.get t.mem a = Memory.get s.mem a

/-- A producer of token slot `tp` with place `place` completes (R241): DONE moves over the complete prefix. Where no later producer has
completed before, that is one place, if the place is the next. -/
def tokenCompletes (x y : Ctx) (tp : BitVec 6) (place : BitVec 16) : Prop :=
  ∀ j : Fin 63, y.tok[j].iss = x.tok[j].iss ∧ (j.val ≠ tp.toNat → y.tok[j] = x.tok[j]) ∧
    (j.val = tp.toNat → x.tok[j].ahead = [] → y.tok[j].dn = if place = x.tok[j].dn + 1 then place else x.tok[j].dn)

/-! ### Guards -/

/-- The guard of a scalar word (R31); a vector word and an event have none. -/
def guardOfWord : Instr → Option Guard
  | .add o | .sub o | .and o | .or o | .xor o | .andn o | .shl o | .shr o | .sar o | .rotl o | .min o | .max o
  | .minn o | .maxn o | .mul o | .mulh o | .mulhn o | .div o | .divn o | .rem o | .remn o | .addw o | .subw o
  | .mulw o => some o.toGuard
  | .clz o | .popc o | .sxb o | .sxh o | .sxw o | .zxb o | .zxh o | .zxw o | .wmkGen o | .jrl o => some o.toGuard
  | .addi o | .andi o | .ori o | .xori o => some o.toGuard
  | .shli o | .shri o | .sari o => some o.toGuard
  | .li o | .lsh o => some o.toGuard
  | .cmp o => some o.toGuard
  | .cmpi o => some o.toGuard
  | .pand o | .por o | .pxor o | .pandn o => some o.toGuard
  | .pnot o | .pmov o => some o.toGuard
  | .sel o => some o.toGuard
  | .ldB o | .ldBz o | .ldH o | .ldHz o | .ldW o | .ldWz o | .ldD o | .stB o | .stH o | .stW o | .stD o => some o.toGuard
  | .sld o | .sst o => some o.toGuard
  | .fld o => some o.toGuard
  | .fld2 o => some o.toGuard
  | .amoAdd o | .amoAnd o | .amoOr o | .amoXor o | .amoMin o | .amoMax o | .amoSwp o | .amoCas o | .amoMinn o
  | .amoMaxn o => some o.toGuard
  | .fence o => some o.toGuard
  | .barInit o | .barArr o | .barWait o | .barAw o => some o.toGuard
  | .tokWait o => some o.toGuard
  | .tokTest o => some o.toGuard
  | .tokSnap o | .tokWaitv o => some o.toGuard
  | .wmkInit o | .wmkWait o | .wmkAdd o => some o.toGuard
  | .wmkTest o => some o.toGuard
  | .br o | .call o => some o.toGuard
  | .jr o | .trap o | .tmark o | .vmode o => some o.toGuard
  | .loop o => some o.toGuard
  | .lexit o => some o.toGuard
  | .mload o | .mswap o | .mcfg o | .mgo o | .mstream o | .mdrain o | .mzero o | .mmode o | .wtab o | .wstream o
  | .cpy o | .cnest o | .cmc o | .cacc o | .cgat o | .csct o | .cstage o | .fbind o | .ftick o | .walk o => some o.toGuard
  | .nop o | .halt o | .eret o | .brk o | .ifence o | .yield o | .vfence o => some o
  | .csrr o => some o.toGuard
  | .csrw o => some o.toGuard
  | .vbusy o => some o.toGuard
  | .vtake o => some o.toGuard
  | _ => none

/-- The word `i` traps with no effect of its own (R294); the trap's record has the loop fields of the word (R321). -/
def State.traps (s : State) (i : Instr) (t : TrapInfo) : Prop :=
  exec i s = .next (s.raise s.cur (s.trapOf ((guardOfWord i).getD Guard.always) t))

/-- The word `i`, which accesses the address `ea`, traps with no effect of its own, once the walk for the address is over: that carries TIME,
and reports an error that it meets (R182, R198, R319). -/
def State.trapsAt (s : State) (i : Instr) (ea : Word) (t : TrapInfo) : Prop :=
  exec i s = .next ((s.noteTrap s.cur [ea.toNat]).raise s.cur (s.trapOf ((guardOfWord i).getD Guard.always) { t with taddr := ea }))

/-- The scalar words that the colophon has not (R358): it traps them with ILLEGAL whatever their guard. -/
def missingAtColophon : Instr → Bool
  | .fld _ | .fld2 _ | .amoAdd _ | .amoAnd _ | .amoOr _ | .amoXor _ | .amoMin _ | .amoMax _ | .amoSwp _ | .amoCas _
  | .amoMinn _ | .amoMaxn _ | .barInit _ | .barArr _ | .barWait _ | .barAw _ | .tokWait _ | .tokTest _ | .tokSnap _
  | .tokWaitv _ | .wmkInit _ | .wmkWait _ | .wmkAdd _ | .wmkGen _ | .wmkTest _ | .mload _ | .mswap _ | .mcfg _
  | .mgo _ | .mstream _ | .mdrain _ | .mzero _ | .mmode _ | .wtab _ | .wstream _ | .cpy _ | .cnest _ | .cmc _
  | .cacc _ | .cgat _ | .csct _ | .cstage _ | .fbind _ | .ftick _ | .walk _ | .vfence _ | .vbusy _ | .vmode _
  | .vtake _ => true
  | _ => false

/-! ### Frames -/

/-- Every byte of memory reads as before. -/
def sameMemory (s t : State) : Prop := ∀ a, Memory.get t.mem a = Memory.get s.mem a

/-- Nothing but the running core has changed. -/
def onlyCore (s t : State) : Prop := t = { s with cores := t.cores } ∧ ∀ p, p ≠ s.cur → t.core p = s.core p

/-- The destinations of the words that write a general register or a predicate and nothing else but run on, and set a warning:
the register (g0 where the word writes none) and the predicate (p0 where it writes none). -/
def registersOf : Instr → Option (BitVec 5 × BitVec 3)
  | .add o | .sub o | .and o | .or o | .xor o | .andn o | .shl o | .shr o | .sar o | .rotl o | .min o | .max o | .minn o | .maxn o
  | .mul o | .mulh o | .mulhn o | .div o | .divn o | .rem o | .remn o | .addw o | .subw o | .mulw o => some (o.d, 0)
  | .clz o | .popc o | .sxb o | .sxh o | .sxw o | .zxb o | .zxh o | .zxw o => some (o.d, 0)
  | .addi o | .andi o | .ori o | .xori o => some (o.d, 0)
  | .shli o | .shri o | .sari o => some (o.d, 0)
  | .li o | .lsh o => some (o.d, 0)
  | .sel o => some (o.d, 0)
  | .sld o => some (o.r, 0)
  | .csrr o => some (o.d, 0)
  | .tokSnap o => some (o.a, 0)
  | .cmp o => some (0, o.p)
  | .cmpi o => some (0, o.p)
  | .pand o | .por o | .pxor o | .pandn o => some (0, o.d)
  | .pnot o | .pmov o => some (0, o.d)
  | .tokTest o => some (0, o.p)
  | .br _ => some (0, 0)
  | .call _ => some (31, 0)
  | .jr _ => some (0, 0)
  | .jrl o => some (o.d, 0)
  | .nop _ => some (0, 0)
  | _ => none

end Sys2Proof.Machine
end

