-- ==== Sys2Proof/Laws/Words.lean ====
section
/-!
SUPPORT. Laws of what every scalar word shares: the guard (R31), the move to the next word (R66 to R72), how a word ends, and
taking a trap (R294, R295).
-/

namespace Sys2Proof.Machine

/-! ### The move to the next word -/

/-- The stage predicates touch `p` only. -/
theorem Ctx.stages_eq (x : Ctx) (i n sn : Nat) : ∃ q, x.stages i n sn = { x with p := q } := by
  unfold Ctx.stages
  generalize List.range (min sn 7) = l
  induction l generalizing x with
  | nil => exact ⟨x.p, rfl⟩
  | cons a t ih =>
    simp only [List.foldl_cons]
    obtain ⟨q, hq⟩ := ih (x.setP (BitVec.ofNat 3 (1 + a)) (decide (a ≤ i) && decide (i - a < n)))
    refine ⟨q, ?_⟩
    rw [hq]
    unfold Ctx.setP
    split <;> rfl

/-- `d` differs from `c` only where the sequencer moves: the PC, the loop engines, the predicates that a pipelined loop writes,
and the state of the debugger. -/
def Core.Moved (c d : Core) : Prop :=
  ∃ pc ls od q b, d = { c with ctx := { c.ctx with pc := pc, loops := ls, order := od, p := q }, dbg := b }

theorem Core.Moved.refl (c : Core) : c.Moved c := ⟨_, _, _, _, _, rfl⟩

theorem Core.Moved.trans {a b c : Core} (h : a.Moved b) (k : b.Moved c) : a.Moved c := by
  obtain ⟨_, _, _, _, _, rfl⟩ := h
  obtain ⟨_, _, _, _, _, rfl⟩ := k
  exact ⟨_, _, _, _, _, rfl⟩

/-- A new kernel iteration moves the sequencer only. -/
theorem Core.iterate_moved (c : Core) (n : BitVec 2) (i : Nat) : c.Moved (c.iterate n i) := by
  unfold Core.iterate
  dsimp only
  split
  · have h := fun x m k j => Ctx.stages_eq x m k j
    rw [Exists.choose_spec (h _ _ _ _)]
    exact ⟨_, _, _, _, _, rfl⟩
  · exact ⟨_, _, _, _, _, rfl⟩

/-- Leaving a loop touches the engines only. -/
theorem Ctx.leaveLoop_eq (x : Ctx) (n : BitVec 2) : ∃ ls od, x.leaveLoop n = { x with loops := ls, order := od } := by
  unfold Ctx.leaveLoop
  have idle : ∀ (x : Ctx) (n : BitVec 2), ∃ ls od, x.idleLoop n = { x with loops := ls, order := od } := fun x n => ⟨_, _, rfl⟩
  obtain ⟨ls, od, h⟩ := idle x n
  rw [h]
  clear h
  generalize x.order.takeWhile (· != n) = l
  induction l generalizing ls od with
  | nil => exact ⟨ls, od, rfl⟩
  | cons a t ih => exact ih _ _

/-- The choice of the next word moves the sequencer only. -/
theorem Core.follow_moved (l : List (BitVec 2)) (c : Core) (t : BitVec 48) : c.Moved (c.follow t l) := by
  have idle : ∀ n, c.Moved { c with ctx := c.ctx.idleLoop n } := fun n => ⟨_, _, _, _, _, rfl⟩
  induction l generalizing c with
  | nil => exact ⟨_, _, _, _, _, rfl⟩
  | cons n more ih =>
    have skip : c.Moved (Core.follow { c with ctx := c.ctx.idleLoop n } t more) :=
      (idle n).trans (ih _ fun m => ⟨_, _, _, _, _, rfl⟩)
    rw [Core.follow]
    dsimp only
    split
    · exact ih c idle
    · split
      · split
        · exact c.iterate_moved n _
        · split
          · split
            · exact ⟨_, _, _, _, _, rfl⟩
            · exact skip
          · exact skip
      · split
        · exact ⟨_, _, _, _, _, rfl⟩
        · obtain ⟨ls, od, h⟩ := Ctx.leaveLoop_eq c.ctx n
          have away : c.Moved { c with ctx := c.ctx.leaveLoop n } := by
            rw [h]
            exact ⟨_, _, _, _, _, rfl⟩
          exact away.trans (ih _ fun m => ⟨_, _, _, _, _, rfl⟩)

/-- A call or jump moves the sequencer only. -/
theorem Core.away_moved (l : List (BitVec 2)) (c : Core) (t : BitVec 48) : c.Moved (c.away t l) := by
  induction l generalizing c with
  | nil => exact ⟨_, _, _, _, _, rfl⟩
  | cons n more ih =>
    rw [Core.away]
    split
    · obtain ⟨ls, od, h⟩ := Ctx.leaveLoop_eq c.ctx n
      have left : c.Moved { c with ctx := c.ctx.leaveLoop n } := by
        rw [h]
        exact ⟨_, _, _, _, _, rfl⟩
      exact left.trans (ih _)
    · exact ih c

/-- What completing a word does to the core, whatever then moves the sequencer. -/
theorem Core.completed_moved (c d : Core) (h : c.completed.Moved d) : ∃ pc ls od q b, d =
    { c with stalled := false, dbg := b, ctx := { c.ctx with pc := pc, loops := ls, order := od, p := q, words := c.ctx.words + 1 } } := by
  obtain ⟨pc, ls, od, q, b, rfl⟩ := h
  exact ⟨pc, ls, od, q, b, rfl⟩

/-- A word that completes changes the PC, the loop engines, the predicates that a pipelined loop writes, the count of completed
words, the mark of a stalled word and the state of the debugger; nothing else of the core. -/
theorem Core.goTo_eq (c : Core) (t : BitVec 48) : ∃ pc ls od q d, c.goTo t =
    { c with stalled := false, dbg := d, ctx := { c.ctx with pc := pc, loops := ls, order := od, p := q, words := c.ctx.words + 1 } } :=
  c.completed_moved _ (Core.follow_moved _ _ _)

@[inherit_doc Core.goTo_eq]
theorem Core.jumpTo_eq (c : Core) (t : BitVec 48) : ∃ pc ls od q d, c.jumpTo t =
    { c with stalled := false, dbg := d, ctx := { c.ctx with pc := pc, loops := ls, order := od, p := q, words := c.ctx.words + 1 } } :=
  c.completed_moved _ (Core.away_moved _ _ _)

@[inherit_doc Core.goTo_eq]
theorem Core.advance_eq (c : Core) : ∃ pc ls od q d, c.advance =
    { c with stalled := false, dbg := d, ctx := { c.ctx with pc := pc, loops := ls, order := od, p := q, words := c.ctx.words + 1 } } :=
  Core.goTo_eq c _

/-- With no loop active a word that completes goes on at its target, and nothing else of the sequencer moves. -/
theorem Core.goTo_idle (c : Core) (t : BitVec 48) (h : c.ctx.order = []) (hd : c.dbg.armed = false) :
    c.goTo t = { c with stalled := false, ctx := { c.ctx with pc := t, words := c.ctx.words + 1 } } := by
  simp [Core.goTo, Core.completed, h, hd, Core.follow]
@[inherit_doc Core.goTo_idle]
theorem Core.jumpTo_idle (c : Core) (t : BitVec 48) (h : c.ctx.order = []) (hd : c.dbg.armed = false) :
    c.jumpTo t = { c with stalled := false, ctx := { c.ctx with pc := t, words := c.ctx.words + 1 } } := by
  simp [Core.jumpTo, Core.completed, h, hd, Core.away]

/-! ### Registers -/

theorem Ctx.rg_setG_self (x : Ctx) (i : BitVec 5) (v : Word) (h : i ≠ 0) : (x.setG i v).rg i = v := by
  have h' : ¬ i = (0 : BitVec 5) := h
  unfold Ctx.rg Ctx.setG
  rw [if_neg h', if_neg h']
  simp

theorem Ctx.rg_setG_other (x : Ctx) (i j : BitVec 5) (v : Word) (h : j ≠ i) : (x.setG i v).rg j = x.rg j := by
  have hn : i.toNat ≠ j.toNat := fun e => h (BitVec.eq_of_toNat_eq e.symm)
  unfold Ctx.rg Ctx.setG
  split
  · rfl
  · split
    · rfl
    · simp [Vector.getElem_set_ne, hn]

/-- g0 reads zero. -/
@[simp] theorem Ctx.rg_zero (x : Ctx) : x.rg 0 = 0 := rfl
/-- p0 reads true. -/
@[simp] theorem Ctx.rp_zero (x : Ctx) : x.rp 0 = true := rfl
/-- A write of g0 is discarded. -/
@[simp] theorem Ctx.setG_zero (x : Ctx) (v : Word) : x.setG 0 v = x := rfl
/-- A write of p0 is discarded. -/
@[simp] theorem Ctx.setP_zero (x : Ctx) (v : Bool) : x.setP 0 v = x := rfl

/-! ### The frame of a word -/

theorem Core.sound_p {c : Core} {g : Guard} {reads : List Bad} (h : c.sound g reads) :
    ¬ (g.g ≠ 0 ∧ c.bad.contains .p = true) := by
  rintro ⟨hg, hb⟩
  exact h.1 hg (List.contains_iff_mem.mp hb)

theorem Core.sound_reads {c : Core} {g : Guard} {reads : List Bad} (h : c.sound g reads) :
    reads.any c.bad.contains = false := by
  rw [List.any_eq_false]
  intro b hb hc
  exact h.2.1 b hb (List.contains_iff_mem.mp hc)

theorem Core.sound_on {c : Core} {g : Guard} {reads : List Bad} (h : c.sound g reads) : c.meetsLoops (c.ctx.pc + 4) = false := h.2.2

/-- A word goes on to address `t`, unless the loop state that decides there holds an error (R306). -/
theorem State.onTo_goes (s s' : State) (g : Guard) (t : BitVec 48) (h : s.now.meetsLoops t = false) : s.onTo g t s' = .next s' := by
  simp only [State.now] at h
  simp [State.onTo, h]

/-- A word whose guard is true runs its own description (R31, R306). -/
theorem word_runs (g : Guard) (reads : List Bad) (f : State → Core → Res) (s : State) (h : s.now.runs g reads) :
    word g reads f s = s.finish g (f s s.now) := by
  obtain ⟨hg, hs⟩ := h
  simp only [State.now] at hg hs
  unfold word
  dsimp only
  rw [if_neg (Core.sound_p hs), Core.sound_reads hs, hg]
  rfl

/-- A word whose guard is false only runs on (R31). -/
theorem word_skips (g : Guard) (reads : List Bad) (f : State → Core → Res) (s : State)
    (hg : s.now.passes g = false) (hs : s.now.sound g []) :
    word g reads f s = .next (s.setCore s.cur (if g.g = 0 then s.now.warn wGuard else s.now).advance) := by
  simp only [State.now] at hg hs
  unfold word
  dsimp only
  rw [if_neg (Core.sound_p hs), hg]
  exact s.onTo_goes _ g _ (Core.sound_on hs)

/-- A word that the colophon traps, on another core (R358). -/
theorem coreWord_runs (g : Guard) (reads : List Bad) (f : State → Core → Res) (s : State) (h : s.now.runs g reads)
    (hc : s.cur ≠ Config.colophon) : coreWord g reads f s = s.finish g (f s s.now) := by
  simp [coreWord, hc, word_runs _ _ _ _ h]

/-- A word that may not run while the queues are held, in TASK mode (R302). -/
theorem queueWord_runs (g : Guard) (reads : List Bad) (f : State → Core → Res) (s : State) (h : s.queues g reads) :
    queueWord g reads f s = s.finish g (f s s.now) := by
  obtain ⟨⟨hg, hp, hs, hl⟩, hm, hc⟩ := h
  have hr : s.now.runs g [] := ⟨hg, hp, by simp, hl⟩
  have hb : (reads.any fun b => s.now.bad.contains b) = false := Core.sound_reads (g := g) ⟨hp, hs, hl⟩
  rw [queueWord, coreWord_runs _ _ _ _ hr hc]
  simp [hm, State.reading, hb]

theorem State.finish_ok (s s' : State) (g : Guard) (h : s.now.meetsLoops (s.now.ctx.pc + 4) = false) :
    s.finish g (.ok s') = .next (s'.mapCore s.cur Core.advance) := s.onTo_goes _ _ _ h
theorem State.finish_to (s s' : State) (g : Guard) (t : BitVec 48) (h : s.now.meetsLoops t = false) :
    s.finish g (.to s' t) = .next (s'.mapCore s.cur fun c => c.goTo t) := s.onTo_goes _ _ _ h
theorem State.finish_jump (s s' : State) (g : Guard) (t : BitVec 48) (h : s.now.meetsLoops t = false) :
    s.finish g (.jump s' t) = .next (s'.mapCore s.cur fun c => c.jumpTo t) := s.onTo_goes _ _ _ h
@[simp] theorem State.finish_trap (s : State) (g : Guard) (t : TrapInfo) :
    s.finish g (.trap t) = .next (s.raise s.cur (s.trapOf g t)) := rfl
@[simp] theorem State.finish_stall (s : State) (g : Guard) :
    s.finish g .stall = .next (s.mapCore s.cur fun c => { c with stalled := true }) := rfl

/-- A word that only changes the running core completes (R31, R68). -/
theorem word_done (g : Guard) (reads : List Bad) (f : State → Core → Res) (F : Core → Core) (s : State)
    (h : s.now.runs g reads) (hf : f s s.now = s.okCore (F s.now)) : word g reads f s = .next (s.done F) := by
  rw [word_runs _ _ _ _ h, hf, State.okCore, State.finish_ok _ _ _ (Core.sound_on h.2)]
  simp [ State.mapCore, State.done, State.core, State.setCore, look_put_self, put_put]

theorem alu2_done (o : OpDAB) (f : Word → Word → Word) (s : State) (h : s.now.runs o.toGuard [bg o.a, bg o.b]) :
    alu2 o f s = .next (s.done (·.setG o.d (f (s.now.rg o.a) (s.now.rg o.b)))) := word_done _ _ _ _ s h rfl
theorem alu1_done (o : OpDA) (f : Word → Word) (s : State) (h : s.now.runs o.toGuard [bg o.a]) :
    alu1 o f s = .next (s.done (·.setG o.d (f (s.now.rg o.a)))) := word_done _ _ _ _ s h rfl
theorem aluI_done (o : OpDAI) (f : Word → Word → Word) (s : State) (h : s.now.runs o.toGuard [bg o.a]) :
    aluI o f s = .next (s.done (·.setG o.d (f (s.now.rg o.a) (o.i.signExtend 64)))) := word_done _ _ _ _ s h rfl
theorem aluS_done (o : OpDAS) (f : Word → Nat → Word) (s : State) (h : s.now.runs o.toGuard [bg o.a]) :
    aluS o f s = .next (s.done (·.setG o.d (f (s.now.rg o.a) o.i.toNat))) := word_done _ _ _ _ s h rfl
theorem pred2_done (o : OpP3) (f : Bool → Bool → Bool) (s : State) (h : s.now.runs o.toGuard [.p]) :
    pred2 o f s = .next (s.done (·.setP o.d (f (s.now.rp o.a) (s.now.rp o.b)))) := word_done _ _ _ _ s h rfl
theorem pred1_done (o : OpP2) (f : Bool → Bool) (s : State) (h : s.now.runs o.toGuard [.p]) :
    pred1 o f s = .next (s.done (·.setP o.d (f (s.now.rp o.a)))) := word_done _ _ _ _ s h rfl

/-- What any word leads to is a next state. -/
theorem word_next (g : Guard) (reads : List Bad) (f : State → Core → Res) (s : State) : ∃ t, word g reads f s = .next t := by
  unfold word
  simp only []
  split
  · exact ⟨_, rfl⟩
  · split
    · exact ⟨_, rfl⟩
    · split
      · exact ⟨_, rfl⟩
      · unfold State.finish
        split <;> exact ⟨_, rfl⟩

end Sys2Proof.Machine
end

