-- ==== Sys2Proof/WellFormed.lean ====
section
/-!
DEFINITION. WellFormed: what the spec asks of an instruction beyond the widths of its fields. A barrier is b0 to b95 and a
token slot t0 to t62 (R38), a loop body has at least one word (R38, R66), and a vector word's unused fields are zero
(R35). An event names a core, queue piece, stack, channel, lease entry or place of a junction (R322) that
exists.
-/

namespace Sys2Proof

/-- A core's physical index (R16), or 640 for the colophon (R358). -/
def coreOk (p : Nat) : Bool := p ≤ 640

/-- The check each constructor of `Instr` meets when it is well formed. -/
def Instr.wellFormed : Instr → Bool
  | .add _ => true
  | .sub _ => true
  | .and _ => true
  | .or _ => true
  | .xor _ => true
  | .andn _ => true
  | .shl _ => true
  | .shr _ => true
  | .sar _ => true
  | .rotl _ => true
  | .min _ => true
  | .max _ => true
  | .minn _ => true
  | .maxn _ => true
  | .mul _ => true
  | .mulh _ => true
  | .mulhn _ => true
  | .div _ => true
  | .divn _ => true
  | .rem _ => true
  | .remn _ => true
  | .clz _ => true
  | .popc _ => true
  | .sxb _ => true
  | .sxh _ => true
  | .sxw _ => true
  | .zxb _ => true
  | .zxh _ => true
  | .zxw _ => true
  | .addw _ => true
  | .subw _ => true
  | .mulw _ => true
  | .addi _ => true
  | .andi _ => true
  | .ori _ => true
  | .xori _ => true
  | .shli _ => true
  | .shri _ => true
  | .sari _ => true
  | .li _ => true
  | .lsh _ => true
  | .cmp _ => true
  | .cmpi _ => true
  | .pand _ => true
  | .por _ => true
  | .pxor _ => true
  | .pandn _ => true
  | .pnot _ => true
  | .pmov _ => true
  | .sel _ => true
  | .ldB _ => true
  | .ldBz _ => true
  | .ldH _ => true
  | .ldHz _ => true
  | .ldW _ => true
  | .ldWz _ => true
  | .ldD _ => true
  | .stB _ => true
  | .stH _ => true
  | .stW _ => true
  | .stD _ => true
  | .sld _ => true
  | .sst _ => true
  | .fld _ => true
  | .fld2 _ => true
  | .amoAdd _ => true
  | .amoAnd _ => true
  | .amoOr _ => true
  | .amoXor _ => true
  | .amoMin _ => true
  | .amoMax _ => true
  | .amoSwp _ => true
  | .amoCas _ => true
  | .amoMinn _ => true
  | .amoMaxn _ => true
  | .fence _ => true
  | .barInit o => o.i.toNat < 96
  | .barArr o => o.i.toNat < 96
  | .barWait o => o.i.toNat < 96
  | .barAw o => o.i.toNat < 96
  | .tokWait o => o.i.toNat < 63
  | .tokTest o => o.i.toNat < 63
  | .tokSnap o => o.i.toNat < 63
  | .tokWaitv o => o.i.toNat < 63
  | .wmkInit _ => true
  | .wmkWait _ => true
  | .wmkAdd _ => true
  | .wmkGen _ => true
  | .wmkTest _ => true
  | .br _ => true
  | .call _ => true
  | .jr _ => true
  | .jrl _ => true
  | .loop o => o.e ≠ 0
  | .lexit _ => true
  | .mload _ => true
  | .mswap _ => true
  | .mcfg _ => true
  | .mgo _ => true
  | .mstream _ => true
  | .mdrain _ => true
  | .mzero _ => true
  | .mmode _ => true
  | .wtab _ => true
  | .wstream _ => true
  | .cpy _ => true
  | .cnest _ => true
  | .cmc _ => true
  | .cacc _ => true
  | .cgat _ => true
  | .csct _ => true
  | .cstage _ => true
  | .fbind _ => true
  | .ftick _ => true
  | .walk _ => true
  | .nop _ => true
  | .halt _ => true
  | .trap _ => true
  | .eret _ => true
  | .brk _ => true
  | .ifence _ => true
  | .tmark _ => true
  | .yield _ => true
  | .csrr _ => true
  | .csrw _ => true
  | .vfence _ => true
  | .vbusy _ => true
  | .vmode _ => true
  | .vtake _ => true
  | .vadd o => VOp.norm .vadd o = o
  | .vsub o => VOp.norm .vsub o = o
  | .vmul o => VOp.norm .vmul o = o
  | .vfma o => VOp.norm .vfma o = o
  | .vfms o => VOp.norm .vfms o = o
  | .vmin o => VOp.norm .vmin o = o
  | .vmax o => VOp.norm .vmax o = o
  | .vabs o => VOp.norm .vabs o = o
  | .vneg o => VOp.norm .vneg o = o
  | .vadds o => VOp.norm .vadds o = o
  | .vmuls o => VOp.norm .vmuls o = o
  | .vfmas o => VOp.norm .vfmas o = o
  | .vrcp o => VOp.norm .vrcp o = o
  | .vrsq o => VOp.norm .vrsq o = o
  | .vexp2 o => VOp.norm .vexp2 o = o
  | .vlog2 o => VOp.norm .vlog2 o = o
  | .viadd o => VOp.norm .viadd o = o
  | .visub o => VOp.norm .visub o = o
  | .vimul o => VOp.norm .vimul o = o
  | .vand o => VOp.norm .vand o = o
  | .vor o => VOp.norm .vor o = o
  | .vxor o => VOp.norm .vxor o = o
  | .vshl o => VOp.norm .vshl o = o
  | .vshr o => VOp.norm .vshr o = o
  | .vsar o => VOp.norm .vsar o = o
  | .vimin o => VOp.norm .vimin o = o
  | .vimax o => VOp.norm .vimax o = o
  | .viadds o => VOp.norm .viadds o = o
  | .vcmp o => VOp.norm .vcmp o = o
  | .vcmps o => VOp.norm .vcmps o = o
  | .vsel o => VOp.norm .vsel o = o
  | .vmov o => VOp.norm .vmov o = o
  | .vbcs o => VOp.norm .vbcs o = o
  | .viota o => VOp.norm .viota o = o
  | .kop o => VOp.norm .kop o = o
  | .kpop o => VOp.norm .kpop o = o
  | .vget o => VOp.norm .vget o = o
  | .vrotr o => VOp.norm .vrotr o = o
  | .vrotc o => VOp.norm .vrotc o = o
  | .vbcr o => VOp.norm .vbcr o = o
  | .vbcc o => VOp.norm .vbcc o = o
  | .vredr o => VOp.norm .vredr o = o
  | .vredc o => VOp.norm .vredc o = o
  | .vshuf o => VOp.norm .vshuf o = o
  | .vcvt o => VOp.norm .vcvt o = o
  | .vpack o => VOp.norm .vpack o = o
  | .vunpk o => VOp.norm .vunpk o = o
  | .vfix o => VOp.norm .vfix o = o
  | .vflt o => VOp.norm .vflt o = o
  | .vld o => VOp.norm .vld o = o
  | .vst o => VOp.norm .vst o = o
  | .vldb o => VOp.norm .vldb o = o
  | .vstadd o => VOp.norm .vstadd o = o
  | .vzero o => VOp.norm .vzero o = o
  | .loadQueueData core _ _ => coreOk core
  | .storePerform core _ _ => coreOk core
  | .coreIdle core => coreOk core
  | .engineCommandStart core _ => coreOk core
  | .engineCommandComplete core _ _ => coreOk core
  | .wave core => coreOk core
  | .waymarkArrival core _ _ => coreOk core
  | .parking core _ => coreOk core
  | .tileDrain core _ => coreOk core
  | .deposit core _ _ => coreOk core
  | .seal _ => true
  | .retrainBegin stack ch => stack < 8 && ch < 32
  | .retrainEnd stack ch _ => stack < 8 && ch < 32
  | .rebuilt stack ch => stack < 8 && ch < 32
  | .admission _ => true
  | .taskStart _ => true
  | .retirement _ _ => true
  | .completionEntry _ => true
  | .hang _ _ => true
  | .preemption _ => true
  | .swap core => coreOk core
  | .taskResume _ _ => true
  | .trapEntry core => coreOk core
  | .debugStop core => coreOk core
  | .prqReq core _ => coreOk core
  | .haltreq core => coreOk core
  | .resume core => coreOk core
  | .claim core _ => coreOk core
  | .ctxctlEmpty core => coreOk core
  | .ctxctlLoaded core => coreOk core
  | .sealing core => coreOk core
  | .frzThaw _ => true
  | .cownWrite _ k _ => k < 10
  | .tlbinvGo _ => true
  | .invalidationComplete _ => true
  | .sinkEnable sink => sink < 17
  | .sync sink => sink < 17
  | .sample core => coreOk core
  | .drop sink => sink < 17
  | .stall core _ _ => coreOk core
  | .cqEnable _ => true
  | .cqtailWrite _ _ => true
  | .devevtRead => true
  | .pctlClr core => coreOk core
  | .offer e => e < 64
  | .accept e _ => e < 64
  | .revoke e _ => e < 64
  | .release e _ => e < 64
  | .clear e => e < 64
  | .deadline e => e < 64
  | .leaseAccess e _ _ _ => e < 64
  | .exportAccess _ _ _ _ => true
  | .hostMemRead m _ => m.addr.toNat < 0x5A00000000
  | .hostMemWrite m _ => m.addr.toNat < 0x5A00000000
  | .trip loc _ _ => loc != 3
  | .deviceReset _ _ => true
  | .computeRelease => true
  | .lcreq _ => true
  | .mwipe _ => true
  | .wipeComplete => true
  | .shactlInit => true
  | .shactlFinal => true
  | .shain _ => true
  | .ecctlGo => true
  | .verifyComplete => true
  | .kwipe _ => true
  | .amext _ => true
  | .dport _ => true
  | .rng _ => true
  | .mailboxWrite _ _ => true
  | .registerWrite _ _ => true
  | .governorSlowing _ _ _ => true
  | .lenderWipeComplete e => e < 64
  | .spdmRequest _ => true

/-- The instruction is well formed. -/
abbrev WellFormed (i : Instr) : Prop := i.wellFormed = true

end Sys2Proof
end

