-- ==== Sys2Proof/Certificates/Slice0/Obligations.lean ====
section
/-!
DEFINITION. Obligations: the statements about the model, for the provers. Each docstring names the rule of the spec that the
statement formalises, and the log entry where a clause rests on a choice of the model.
-/

open Sys2Proof Sys2Proof.Machine

/-! ### Encoding -/

/-- R30 to R42: words written out bit by bit from the encodings decode to the instructions that they stand for. -/
def Obligations.DecodeWords : Prop :=
  decode 0b0_000_0_000000_00011_00100_00101_000000 = .ok (.add ⟨⟨0, 0⟩, 3, 4, 5⟩) ∧
  decode 0b0_000_0_000000_00011_00100_00101_010001 = .ok (.div ⟨⟨0, 0⟩, 3, 4, 5⟩) ∧
  decode 0b0_000_0_000001_00100_00100_11111111111 = .ok (.addi ⟨⟨0, 0⟩, 4, 4, -1⟩) ∧
  decode 0b0_010_1_001010_10_011_00100_00101_000100 = .ok (.cmp ⟨⟨2, 1⟩, 2, 3, 4, 5, 4⟩) ∧
  decode 0b0_000_0_010100_00111_00101_0010_0000010 = .ok (.ldW ⟨⟨0, 0⟩, 7, 5, 2, 2⟩) ∧
  decode 0b0_000_0_011010_00110_00101_0001_0000000 = .ok (.stW ⟨⟨0, 0⟩, 6, 5, 1, 0⟩) ∧
  decode 0b0_000_0_011101_00110_0000000_000000011 = .ok (.sst ⟨⟨0, 0⟩, 6, 0, 3⟩) ∧
  decode 0b0_000_0_110001_000000000000000010000 = .ok (.call ⟨⟨0, 0⟩, 16⟩) ∧
  decode 0b0_000_0_110010_11111_01000_00000_000001 = .ok (.jrl ⟨⟨0, 0⟩, 31, 8⟩) ∧
  decode 0b0_000_0_110100_00010_00000_00000_000000 = .ok (.lexit ⟨⟨0, 0⟩, 2⟩) ∧
  decode 0b0_000_0_111101_01000_00000_00000001001 = .ok (.csrr ⟨⟨0, 0⟩, 8, 9⟩) ∧
  decode 0b0_000_0_000000_00011_00100_00101_100000 = .error .unassignedMinor ∧
  decode 0b0_000_0_001110_00000_00000_00000_000000 = .error .unassignedOp

/-- R30, R33, R41: the decoder gives back every instruction word that the encoder writes, with every operand at every value that
the encoding admits. -/
def Obligations.DecodeEncode : Prop :=
  ∀ (i : Instr) (w : Code), i.wellFormed = true → encode i = some w → decode w = .ok i

/-- R38: what the decoder accepts is a well-formed instruction word, and no event of the device. -/
def Obligations.DecodeWellFormed : Prop :=
  ∀ (w : Code) (i : Instr), decode w = .ok i → i.wellFormed = true ∧ i.isWord = true

/-! ### The machine as a whole -/

/-- The reset state is canonical: memory lists nothing, and each core is listed once. The form of the memory and of the core
table is the model's own (log 4). -/
def Obligations.ResetCanonical : Prop := State.reset.canonical

/-- Every step keeps the canonical form: addresses strictly rising, no listed byte 0, each core listed once. The form of the
memory and of the core table is the model's own (log 4). -/
def Obligations.StepKeepsCanonical : Prop :=
  ∀ s s' : State, s.canonical → step s = .next s' → s'.canonical

/-- `u` is `s` after the fetch, which moves at most TIME, and that only where it reads memory
or page tables (R185, R319). -/
def fetchedFrom (s u : State) (corr : List Nat) : Prop :=
  s.timed u ∧
  (corr = [] → s.cur = Config.colophon ∨ s.entriesOf s.now.seat.part (s.now.ctx.pc.toNat / 65536 * 65536) = [] →
    u = s)

/-- R32: with an empty agenda a step runs the core `cur`: where it may run, no request is taken at the boundary, no drained loop goes on
(R309), the fetch gives a word without a corrected error, no breakpoint matches, and the word decodes, the step is that instruction's
meaning. -/
def stepRunsDecoded : Prop :=
  ∀ (s : State) (w : Code) (i : Instr) (corr : List Nat), s.reaches w corr → decode w = .ok i →
    ∃ u, fetchedFrom s u corr ∧ step s = s.ran (exec i u)

/-- R32: a word that the decoder refuses traps with cause ILLEGAL, whatever its guard, and no part of it takes effect. -/
def stepTrapsIllegal : Prop :=
  ∀ (s : State) (w : Code) (e : DecodeErr) (corr : List Nat), s.reaches w corr → decode w = .error e →
    ∃ u, fetchedFrom s u corr ∧
      step s = s.ran (.next (u.raise s.cur (u.trapOf (wordGuard w) { cause := .illegal })))

/-- R32: a step runs the word at the PC of the core `cur`: a decoded word's own meaning, or the trap of a word that the decoder refuses. A
word in which an access of the device's own must wait waits with it (R305, R366). That `cur` and the agenda order the agents, and that a
core's turn ends after a number of words, is the model's own (logs 3, 51). -/
def Obligations.StepRunsWord : Prop := stepRunsDecoded ∧ stepTrapsIllegal

/-- R10, R17, R85, R346, R357: what reset leaves, where the spec gives the value: every core's registers, predicates, spill
memory, vector registers and masks, warnings and flags 0, its loop engines idle, every byte of memory 0, GRACE 100. That the
colophon's memories and the addresses of no memory read 0 is the model's choice (logs 1, 4). -/
def Obligations.ResetState : Prop :=
  let s := State.reset
  (∀ p < 640, (∀ r, (s.core p).rg r = 0) ∧ (∀ r, (s.core p).rp r = decide (r = 0)) ∧ (∀ i : Fin 512, (s.core p).ctx.spill[i] = 0) ∧
    (∀ (i : Fin 16) (j : Fin 1024), ((s.core p).ctx.vu.v[i])[j] = 0) ∧ (∀ (i : Fin 8) (r : Fin 16), ((s.core p).ctx.vu.k[i])[r] = 0) ∧
    (s.core p).ctx.order = [] ∧ (s.core p).ctx.warn = 0 ∧ (s.core p).ctx.vufl = 0 ∧ (s.core p).mefl = 0) ∧
  (∀ a, Memory.get s.mem a = 0) ∧ (∀ e : Fin 64, (s.leases[e]).grace = 100 ∧ (s.leases[e]).st = 0)

/-! ### Registers and the sequencer -/

/-- R11: a read of g[r] or p[r] gives the value last written; a write to g0, p0 or k0 is discarded with no warning, and they read zero, true
and all ones. -/
def Obligations.RegisterFile : Prop :=
  ∀ (c : Core), (∀ (d r : BitVec 5) (v : Word), (c.setG d v).rg r = if r = 0 then 0 else if r = d then v else c.rg r) ∧
    (∀ (d r : BitVec 3) (v : Bool), (c.setP d v).rp r = if r = 0 then true else if r = d then v else c.rp r) ∧
    (∀ (d r : BitVec 3) (v : BitVec 5) (x : Word), (c.setG v x).rp r = c.rp r ∧ ∀ b : Bool, (c.setP d b).rg v = c.rg v) ∧
    (∀ (v : Word) (b : Bool), (c.setG 0 v).ctx = c.ctx ∧ (c.setP 0 b).ctx = c.ctx) ∧
    ∀ (u : Vu) (n l f : Nat) (w k : MReg), u.writeK 0 n l f w k = u ∧ ∀ r : Fin 16, (u.readK 0 n f)[r] = BitVec.allOnes 64

/-- R12, R31: a scalar word executes if p[PG] xor PN is true; with a false guard it has no effect beyond advancing the PC, but for W_GUARD of
the "never" guard. -/
def Obligations.GuardFalse : Prop :=
  (∀ (c : Core) (g : Guard), c.passes g = xor (c.rp g.g) (decide (g.n = 1))) ∧
  ∀ (s : State) (i : Instr) (g : Guard), guardOfWord i = some g → s.now.passes g = false → s.now.sound g [] →
    (missingAtColophon i = true → s.cur ≠ Config.colophon) →
    exec i s = .next (s.done fun c => if g.g = 0 then c.warn wGuard else c)

/-- R68, R69: outside every loop a word that completes goes on at its target, four bytes on in sequence, and so does a call or a jump; it
changes nothing else of the core but the debugger's step and the count of completed words. -/
def sequencerNoLoop : Prop :=
  ∀ (c : Core) (t : BitVec 48), c.ctx.order = [] →
    (c.goTo t).ctx = { c.ctx with pc := t, words := c.ctx.words + 1 } ∧ c.advance = c.goTo (c.ctx.pc + 4) ∧ c.jumpTo t = c.goTo t ∧
    c.goTo t = { c with stalled := false, ctx := (c.goTo t).ctx, dbg := (c.goTo t).dbg }

/-- R67, R68: at the end of the innermost body the next kernel iteration begins, with its stage predicates, while one remains and
no exit is requested; else the engine becomes idle, and control goes on past the body where no other loop is active. No request
for a trap is pending. -/
def sequencerLoop : Prop :=
  ∀ (c : Core) (n : BitVec 2) (more : List (BitVec 2)), c.ctx.order = n :: more → c.wanted = false →
    let l := c.ctx.loop n
    let i := l.iter.toNat + 1
    let d := c.goTo l.fin
    l.has c.ctx.pc = true → l.drain = none →
    (l.act = true ∧ l.exit = false ∧ i < l.count.toNat + l.s - 1 →
      d.ctx.pc = l.start ∧ d.ctx.order = n :: more ∧ d.ctx.loop n = { l with iter := BitVec.ofNat 29 i } ∧
      (2 ≤ l.s → ∀ k < l.s, d.rp (BitVec.ofNat 3 (1 + k)) = decide (k ≤ i ∧ i - k < l.count.toNat)) ∧
      (l.s = 1 → d.ctx.p = c.ctx.p)) ∧
    (more = [] → ¬ (l.act = true ∧ l.exit = false ∧ i < l.count.toNat + l.s - 1) →
      d.ctx.pc = l.fin ∧ d.ctx.order = more ∧ d.ctx.loop n = Loop.idle ∧ d.ctx.p = c.ctx.p)

/-- R69: a transfer out of the innermost body makes that loop idle, and one within the body, to its start too, is no iteration. A call or
a jump to the end of the body leaves it too: only a branch, or going on in sequence, begins an iteration there (R68). -/
def sequencerLeave : Prop :=
  ∀ (c : Core) (n : BitVec 2) (t : BitVec 48), c.ctx.order = [n] →
    let l := c.ctx.loop n
    let stays := fun (d : Core) => d.ctx = { c.ctx with pc := t, words := c.ctx.words + 1 }
    let leaves := fun (d : Core) => d.ctx.pc = t ∧ d.ctx.order = [] ∧ d.ctx.loop n = Loop.idle ∧ d.ctx.p = c.ctx.p
    l.has c.ctx.pc = true →
    (l.has t = true → stays (c.goTo t) ∧ stays (c.jumpTo t)) ∧
    (l.has t = false → (t ≠ l.fin → leaves (c.goTo t)) ∧ leaves (c.jumpTo t))

/-- R67, R68, R69: how a word that completes moves the sequencer: outside every loop, at the end of the innermost body, and out of it. -/
def Obligations.SequencerMoves : Prop := sequencerNoLoop ∧ sequencerLoop ∧ sequencerLeave

/-! ### The ALU group -/

/-- R50: the arithmetic words complete with the exact result, narrowed to 64 bits. -/
def arithmeticWords : Prop :=
  ∀ (s : State) (o : OpDAB), s.now.runs o.toGuard [bg o.a, bg o.b] →
    let a := s.now.rg o.a
    let b := s.now.rg o.b
    s.results (.add o) o.d (fun v => v.toNat = (a.toNat + b.toNat) % 2 ^ 64) ∧
    s.results (.sub o) o.d (fun v => (v.toNat + b.toNat) % 2 ^ 64 = a.toNat) ∧
    s.results (.mul o) o.d (fun v => v.toNat = a.toNat * b.toNat % 2 ^ 64) ∧
    s.results (.mulh o) o.d (fun v => v.toInt = a.toInt * b.toInt / 2 ^ 64) ∧
    s.results (.mulhn o) o.d (fun v => v.toNat = a.toNat * b.toNat / 2 ^ 64) ∧
    s.results (.min o) o.d (fun v => v.toInt = min a.toInt b.toInt) ∧
    s.results (.max o) o.d (fun v => v.toInt = max a.toInt b.toInt) ∧
    s.results (.minn o) o.d (fun v => v.toNat = min a.toNat b.toNat) ∧
    s.results (.maxn o) o.d (fun v => v.toNat = max a.toNat b.toNat) ∧
    s.results (.addw o) o.d (fun v => v.toInt = ((a.toNat + b.toNat : Nat) : Int).bmod (2 ^ 32)) ∧
    s.results (.subw o) o.d (fun v => v.toInt = ((a.toNat : Int) - b.toNat).bmod (2 ^ 32)) ∧
    s.results (.mulw o) o.d (fun v => v.toInt = ((a.toNat * b.toNat : Nat) : Int).bmod (2 ^ 32))

/-- R50: the logic words bit by bit, and the shifts and rotates by b[5:0]. -/
def logicShiftWords : Prop :=
  ∀ (s : State) (o : OpDAB), s.now.runs o.toGuard [bg o.a, bg o.b] →
    let a := s.now.rg o.a
    let b := s.now.rg o.b
    let n := b.toNat % 64
    s.results (.and o) o.d (fun v => ∀ k, v.getLsbD k = (a.getLsbD k && b.getLsbD k)) ∧
    s.results (.or o) o.d (fun v => ∀ k, v.getLsbD k = (a.getLsbD k || b.getLsbD k)) ∧
    s.results (.xor o) o.d (fun v => ∀ k, v.getLsbD k = (a.getLsbD k != b.getLsbD k)) ∧
    s.results (.andn o) o.d (fun v => ∀ k, v.getLsbD k = (a.getLsbD k && !b.getLsbD k)) ∧
    s.results (.shl o) o.d (fun v => v.toNat = a.toNat * 2 ^ n % 2 ^ 64) ∧
    s.results (.shr o) o.d (fun v => v.toNat = a.toNat / 2 ^ n) ∧
    s.results (.sar o) o.d (fun v => v.toInt = a.toInt / 2 ^ n) ∧
    s.results (.rotl o) o.d (fun v => ∀ k < 64, v.getLsbD ((k + n) % 64) = a.getLsbD k)

/-- R51: the division words; none traps. -/
def divisionWords : Prop :=
  ∀ (s : State) (o : OpDAB), s.now.runs o.toGuard [bg o.a, bg o.b] →
    let a := s.now.rg o.a
    let b := s.now.rg o.b
    s.results (.div o) o.d (fun v => v.toInt = if b.toInt = 0 then -1
      else if a.toInt = -2 ^ 63 ∧ b.toInt = -1 then -2 ^ 63 else a.toInt.tdiv b.toInt) ∧
    s.results (.rem o) o.d (fun v => v.toInt = if b.toInt = 0 then a.toInt
      else if a.toInt = -2 ^ 63 ∧ b.toInt = -1 then 0 else a.toInt - a.toInt.tdiv b.toInt * b.toInt) ∧
    s.results (.divn o) o.d (fun v => v.toNat = if b.toNat = 0 then 2 ^ 64 - 1 else a.toNat / b.toNat) ∧
    s.results (.remn o) o.d (fun v => v.toNat = if b.toNat = 0 then a.toNat else a.toNat - a.toNat / b.toNat * b.toNat)

/-- R50: the one-operand words. -/
def unaryWords : Prop :=
  ∀ (s : State) (o : OpDA), s.now.runs o.toGuard [bg o.a] →
    let a := s.now.rg o.a
    s.results (.clz o) o.d (fun v => v.toNat ≤ 64 ∧ a.toNat < 2 ^ (64 - v.toNat) ∧ (v.toNat < 64 → 2 ^ (63 - v.toNat) ≤ a.toNat)) ∧
    s.results (.popc o) o.d (fun v => v.toNat = ∑ k ∈ Finset.range 64, a.toNat / 2 ^ k % 2) ∧
    s.results (.sxb o) o.d (fun v => v.toInt = (a.toNat : Int).bmod (2 ^ 8)) ∧
    s.results (.sxh o) o.d (fun v => v.toInt = (a.toNat : Int).bmod (2 ^ 16)) ∧
    s.results (.sxw o) o.d (fun v => v.toInt = (a.toNat : Int).bmod (2 ^ 32)) ∧
    s.results (.zxb o) o.d (fun v => v.toNat = a.toNat % 2 ^ 8) ∧
    s.results (.zxh o) o.d (fun v => v.toNat = a.toNat % 2 ^ 16) ∧
    s.results (.zxw o) o.d (fun v => v.toNat = a.toNat % 2 ^ 32)

/-- R52 to R54: the immediate words, with the immediate sign-extended, the shift counts IMM11[5:0], and `li` and `lsh`. -/
def immediateWords : Prop :=
  ∀ (s : State),
    (∀ o : OpDAI, s.now.runs o.toGuard [bg o.a] →
      let a := s.now.rg o.a
      let imm := fun k => if k < 11 then o.i.getLsbD k else decide (k < 64) && o.i.getLsbD 10
      s.results (.addi o) o.d (fun v => v.toInt = (a.toInt + o.i.toInt).bmod (2 ^ 64)) ∧
      s.results (.andi o) o.d (fun v => ∀ k, v.getLsbD k = (a.getLsbD k && imm k)) ∧
      s.results (.ori o) o.d (fun v => ∀ k, v.getLsbD k = (a.getLsbD k || imm k)) ∧
      s.results (.xori o) o.d (fun v => ∀ k, v.getLsbD k = (a.getLsbD k != imm k))) ∧
    (∀ o : OpDAS, s.now.runs o.toGuard [bg o.a] →
      let a := s.now.rg o.a
      s.results (.shli o) o.d (fun v => v.toNat = a.toNat * 2 ^ o.i.toNat % 2 ^ 64) ∧
      s.results (.shri o) o.d (fun v => v.toNat = a.toNat / 2 ^ o.i.toNat) ∧
      s.results (.sari o) o.d (fun v => v.toInt = a.toInt / 2 ^ o.i.toNat)) ∧
    (∀ o : OpDI, s.now.runs o.toGuard [] → s.results (.li o) o.d (fun v => v.toInt = o.i.toInt)) ∧
    (∀ o : OpDI, s.now.runs o.toGuard [bg o.d] →
      s.results (.lsh o) o.d (fun v => v.toNat = (s.now.rg o.d).toNat * 2 ^ 16 % 2 ^ 64 + o.i.toNat))

/-- R50 to R54: the words of the ALU complete with their results: arithmetic, logic and shifts, divisions, of which none traps, the
one-operand words, and the words with an immediate. -/
def Obligations.AluWords : Prop := arithmeticWords ∧ logicShiftWords ∧ divisionWords ∧ unaryWords ∧ immediateWords

/-- R55, R56: the condition of a compare in independent terms. -/
def conditionHolds (c : BitVec 3) (a b : Word) : Bool :=
  if c = 0 then decide (a.toNat = b.toNat) else if c = 1 then decide (a.toNat ≠ b.toNat)
  else if c = 2 then decide (a.toInt < b.toInt) else if c = 3 then decide (b.toInt ≤ a.toInt)
  else if c = 4 then decide (a.toNat < b.toNat) else if c = 5 then decide (b.toNat ≤ a.toNat)
  else if c = 6 then decide (a.toNat &&& b.toNat ≠ 0) else decide (a.toNat &&& b.toNat = 0)

/-- R55, R56: `cmp` combines the condition into its predicate, `cmpi` sets it. -/
def compareResults : Prop :=
  ∀ (s : State),
    (∀ o : OpCmp, s.now.runs o.toGuard (if o.m = 0 then [bg o.a, bg o.b] else [bg o.a, bg o.b, .p]) →
      let c := conditionHolds o.c (s.now.rg o.a) (s.now.rg o.b)
      s.decides (.cmp o) o.p (if o.m = 0 then c else if o.m = 1 then s.now.rp o.p && c else if o.m = 2 then s.now.rp o.p || c
        else s.now.rp o.p && !c)) ∧
    (∀ o : OpCmpi, s.now.runs o.toGuard [bg o.a] →
      s.decides (.cmpi o) o.p (conditionHolds o.c (s.now.rg o.a) (BitVec.ofInt 64 o.i.toInt)))

/-- R57, R58: predicate logic and `sel`. -/
def logicResults : Prop :=
  ∀ (s : State),
    (∀ o : OpP3, s.now.runs o.toGuard [.p] →
      let a := s.now.rp o.a
      let b := s.now.rp o.b
      s.decides (.pand o) o.d (decide (a = true ∧ b = true)) ∧ s.decides (.por o) o.d (decide (a = true ∨ b = true)) ∧
      s.decides (.pxor o) o.d (decide (a ≠ b)) ∧ s.decides (.pandn o) o.d (decide (a = true ∧ b = false))) ∧
    (∀ o : OpP2, s.now.runs o.toGuard [.p] →
      s.decides (.pnot o) o.d (decide (s.now.rp o.a = false)) ∧ s.decides (.pmov o) o.d (s.now.rp o.a)) ∧
    (∀ o : OpSel, s.now.runs o.toGuard [bg o.a, bg o.b, .p] →
      s.results (.sel o) o.d (fun v => v = if s.now.rp o.p = true then s.now.rg o.a else s.now.rg o.b))

/-- R55 to R58: compares, predicate logic and `sel` complete with their results. -/
def Obligations.PredicateWords : Prop := compareResults ∧ logicResults

/-- R63: the spill words. Masked-off slot bits set W_SPILL; an `sld` changes one general register, an `sst` one slot. -/
def Obligations.SpillWords : Prop :=
  ∀ (s : State) (o : OpSpill),
    (s.now.runs o.toGuard [.spill o.s.toNat] → ∃ c, exec (.sld o) s = .next (s.done fun _ => c) ∧
      (∀ r, c.rg r = if r = 0 then 0 else if r = o.r then s.now.ctx.spill[o.s.toNat]'o.s.isLt else s.now.rg r) ∧
      c.ctx.warn = (if o.w = 0 then s.now.ctx.warn else s.now.ctx.warn ||| 8) ∧
      c = { s.now with bad := c.bad, ctx := { s.now.ctx with g := c.ctx.g, warn := c.ctx.warn } }) ∧
    (s.now.runs o.toGuard [bg o.r] → ∃ c, exec (.sst o) s = .next (s.done fun _ => c) ∧
      (∀ i : Fin 512, c.ctx.spill[i] = if i.val = o.s.toNat then s.now.rg o.r else s.now.ctx.spill[i]) ∧
      c.ctx.warn = (if o.w = 0 then s.now.ctx.warn else s.now.ctx.warn ||| 8) ∧
      c = { s.now with bad := c.bad, ctx := { s.now.ctx with spill := c.ctx.spill, warn := c.ctx.warn } })

/-- The frame of the words that write a general register or a predicate: where such a word does not trap,
every other register, every predicate but the named one where no pipelined loop writes the stages, every other core, every byte
of memory and all other state is as before; the PC, the loops, WARN, the error marks and the debugger's step may change. -/
def Obligations.RegisterWordsFrame : Prop :=
  ∀ (i : Instr) (d : BitVec 5) (q : BitVec 3) (s t : State), registersOf i = some (d, q) → exec i s = .next t →
    (∀ k, t ≠ s.raise s.cur k) → (∀ g, t ≠ s.raiseBad g) →
    t.cur = s.cur ∧ sameMemory s t ∧ onlyCore s t ∧ (∀ r, r ≠ d → t.now.rg r = s.now.rg r) ∧
    (s.now.ctx.pipelined = false → ∀ r, r ≠ q → t.now.rp r = s.now.rp r) ∧
    ∃ g p pc ls od w bad dbg, t.now = { s.now with
      stalled := false, bad := bad, dbg := dbg
      ctx := { s.now.ctx with g := g, p := p, pc := pc, loops := ls, order := od, warn := w, words := s.now.ctx.words + 1 } }

/-! ### Control flow -/

/-- R64: `br` and `call` go to the address OFF21 words on; `call` links the address after it in g31. -/
def branchTargets : Prop :=
  ∀ (s : State) (o : OpB), s.now.begins o.toGuard [] → ∃ t : BitVec 48,
    (t.toNat : Int) = ((s.now.ctx.pc.toNat : Int) + 4 * o.o.toInt) % 2 ^ 48 ∧
    (s.now.meetsLoops t = false → exec (.br o) s = .next (s.doneTo t id) ∧
      ∃ v : Word, v.toNat = (s.now.ctx.pc.toNat + 4) % 2 ^ 48 ∧ exec (.call o) s = .next (s.doneJump t (·.setG 31 v)))

/-- R65: the jumps: ALIGN, then XMISS, else control goes to the address in g[A], and `jrl` links; g[A] is read first. -/
def jumpTargets : Prop :=
  ∀ (s : State),
    (∀ o : OpA, s.now.begins o.toGuard [bg o.a] →
      let t := s.now.rg o.a
      (t.toNat % 4 ≠ 0 → s.traps (.jr o) { cause := .align, taddr := t }) ∧
      (t.toNat % 4 = 0 → 2 ^ 48 ≤ t.toNat → s.traps (.jr o) { cause := .xmiss, taddr := t }) ∧
      (t.toNat % 4 = 0 → t.toNat < 2 ^ 48 → s.now.meetsLoops (BitVec.ofNat 48 t.toNat) = false →
        exec (.jr o) s = .next (s.doneJump (BitVec.ofNat 48 t.toNat) id))) ∧
    (∀ o : OpDA, s.now.begins o.toGuard [bg o.a] →
      let t := s.now.rg o.a
      (t.toNat % 4 ≠ 0 → s.traps (.jrl o) { cause := .align, taddr := t }) ∧
      (t.toNat % 4 = 0 → 2 ^ 48 ≤ t.toNat → s.traps (.jrl o) { cause := .xmiss, taddr := t }) ∧
      (t.toNat % 4 = 0 → t.toNat < 2 ^ 48 → s.now.meetsLoops (BitVec.ofNat 48 t.toNat) = false →
        ∃ v : Word, v.toNat = (s.now.ctx.pc.toNat + 4) % 2 ^ 48 ∧
        exec (.jrl o) s = .next (s.doneJump (BitVec.ofNat 48 t.toNat) (·.setG o.d v))))

/-- R64, R65: branches, calls and jumps complete at their targets, with the links they write, or trap on a bad target. -/
def Obligations.JumpWords : Prop := branchTargets ∧ jumpTargets

/-- R67: a loop that passes its checks starts: the engine becomes active at iteration 0 with its body after the word, and writes
the stage predicates of kernel iteration 0; a count of 0 goes on at the end of the body. STG 7 runs with one stage and sets
W_LOOP. -/
def loopStarts : Prop :=
  ∀ (s : State) (o : OpLoop), s.now.runs o.toGuard [bg o.a, .loops] →
    let x := s.now.ctx
    let n := (s.now.rg o.a).toNat
    let st := if o.s = 7 then 1 else o.s.toNat + 1
    let start := x.pc + 4
    let fin := start + 4 * o.e.setWidth 48
    let w := if o.s = 7 then x.warn ||| 32 else x.warn
    o.i ∉ x.order → (2 ≤ st → ∀ m ∈ x.order, (x.loop m).s < 2) →
    (∀ m ∈ x.order, start.toNat + 4 * o.e.toNat ≤ (x.loop m).start.toNat + 4 * (x.loop m).len.toNat) → n < 2 ^ 28 →
    (n = 0 → exec (.loop o) s = .next (s.doneTo fin fun c => { c with ctx := { c.ctx with warn := w } })) ∧
    (0 < n → ∃ c, exec (.loop o) s = .next (s.done fun _ => c) ∧
      c.ctx.order = o.i :: x.order ∧
      (∀ m, c.ctx.loop m = if m = o.i
        then ⟨true, if o.s = 7 then 0 else o.s, 0, BitVec.ofNat 28 n, start, o.e, false, none, false⟩ else x.loop m) ∧
      (∀ k : BitVec 3, c.rp k = if 2 ≤ st ∧ 1 ≤ k.toNat ∧ k.toNat ≤ st then decide (k.toNat = 1) else s.now.rp k) ∧
      c = { s.now with ctx := { x with order := c.ctx.order, loops := c.ctx.loops, p := c.ctx.p, warn := w } })

/-- R67: the failing checks of `loop`, in order, each with its code in TINFO. -/
def loopTraps : Prop :=
  ∀ (s : State) (o : OpLoop), s.now.runs o.toGuard [bg o.a, .loops] →
    let x := s.now.ctx
    let st := if o.s = 7 then 1 else o.s.toNat + 1
    let two := 2 ≤ st ∧ ∃ m ∈ x.order, 2 ≤ (x.loop m).s
    let outside := ∃ m ∈ x.order, (x.loop m).start.toNat + 4 * (x.loop m).len.toNat < (x.pc + 4).toNat + 4 * o.e.toNat
    (o.i ∈ x.order → s.traps (.loop o) { cause := .loop, tinfo := 1 }) ∧
    (o.i ∉ x.order → two → s.traps (.loop o) { cause := .loop, tinfo := 0 }) ∧
    (o.i ∉ x.order → ¬ two → outside → s.traps (.loop o) { cause := .loop, tinfo := 2 }) ∧
    (o.i ∉ x.order → ¬ two → ¬ outside → 2 ^ 28 ≤ (s.now.rg o.a).toNat → s.traps (.loop o) { cause := .loop, tinfo := 3 })

/-- R71: `lexit` sets the exit request of an active engine, and has no effect on an idle one. -/
def lexitResults : Prop :=
  ∀ (s : State) (o : OpL), s.now.runs o.toGuard [.loops] →
    (o.l ∉ s.now.ctx.order → exec (.lexit o) s = .next (s.done id)) ∧
    (o.l ∈ s.now.ctx.order → ∃ c, exec (.lexit o) s = .next (s.done fun _ => c) ∧
      (∀ m, c.ctx.loop m = if m = o.l then { s.now.ctx.loop m with exit := true } else s.now.ctx.loop m) ∧
      c = { s.now with ctx := { s.now.ctx with loops := c.ctx.loops } })

/-- R67, R71: `loop` starts or traps as its checks say, in their order, and `lexit` requests the exit of an active engine. -/
def Obligations.LoopWords : Prop := loopStarts ∧ loopTraps ∧ lexitResults

/-! ### Control and status registers -/

/-- The CSR numbers of R15. -/
def csrListed (n : Nat) : Prop :=
  n ≤ 4 ∨ (8 ≤ n ∧ n ≤ 0xB) ∨ (0x10 ≤ n ∧ n ≤ 0x15) ∨ (0x18 ≤ n ∧ n ≤ 0x1E) ∨ n = 0x20 ∨ (0x30 ≤ n ∧ n ≤ 0x43) ∨
  (0x50 ≤ n ∧ n ≤ 0x5F) ∨ n = 0x70 ∨ (0x80 ≤ n ∧ n ≤ 0x87)

/-- The CSR numbers marked "none" in TASK mode (R15). -/
def csrNone (n : Nat) : Prop :=
  (0x10 ≤ n ∧ n ≤ 0x15) ∨ (0x18 ≤ n ∧ n ≤ 0x1E) ∨ n = 0x70 ∨ (0x80 ≤ n ∧ n ≤ 0x87)

/-- The CSR numbers that a TASK-mode program may write (R15, R217). -/
def csrOpen (n : Nat) : Prop := (9 ≤ n ∧ n ≤ 0xB) ∨ (0x50 ≤ n ∧ n ≤ 0x5F)

/-- A pipelined loop of the core drains for a request, or has drained and waits for the resume (R308, R309). -/
def draining (c : Core) : Prop := (∃ i : Fin 4, (c.ctx.loops[i]).drain ≠ none) ∨ (c.ctx.refilling = true ∧ c.sys = false)

/-- What `csrr` of CSR `n` sets its register to, for the registers of R10, R15 to R17, R72, R173, R217, R291, R308, R318 and R327. -/
def csrReads (s : State) (n : Nat) (v : Word) : Prop :=
  let c := s.now
  let x := c.ctx
  (n = 0 → v.toNat = (s.cur % 1024 * 2 ^ 16 + c.seat.vy * 2 ^ 5 + c.seat.vx) % 2 ^ 64) ∧
  (n = 1 → v.toNat = (c.seat.lw + c.seat.lh * 2 ^ 4 + c.seat.prio.toNat * 2 ^ 8) % 2 ^ 64) ∧
  (n = 0x20 → v.toNat = (if dieOf s.cur = 0 then s.time[0] else s.time[1]) % 2 ^ 64) ∧
  (n = 2 → v.toNat = c.seat.part.toNat) ∧ (n = 3 → v = x.args) ∧ (n = 4 → v = x.tcb) ∧ (n = 8 → v.toNat = if c.sys then 1 else 0) ∧
  (n = 9 → v.toNat = x.warn.toNat) ∧ (n = 0xA → v.toNat = x.vufl.toNat) ∧ (n = 0xB → v.toNat = c.mefl.toNat) ∧
  (n = 0x10 → v = x.tcause) ∧ (n = 0x11 → v = x.tpc) ∧ (n = 0x12 → v = x.tinfo) ∧ (n = 0x13 → v = x.taddr) ∧ (n = 0x14 → v = x.tvec) ∧
  (n = 0x15 → v = x.tsave) ∧ (∀ i : Fin 7, n = 0x18 + i → v = x.cut[i]) ∧
  (∀ i : Fin 8, n = 0x30 + i → v = x.mp[i]) ∧ (∀ i : Fin 8, n = 0x38 + i → v = x.ceid[i]) ∧
  (∀ i : Fin 4, n = 0x40 + i → v.toNat = let l := x.loops[i]
    (if l.act then 2 ^ 63 else 0) + l.stg.toNat * 2 ^ 60 + l.iter.toNat * 2 ^ 28 + l.count.toNat) ∧
  (∀ i : Fin 16, n = 0x50 + i → v.toNat = let f := x.fslots[i]
    f.code.toNat + (if f.bound.isSome then 2 ^ 7 else 0) + (if f.sat then 2 ^ 8 else 0) + (if f.ovf then 2 ^ 9 else 0) +
      f.reason.toNat * 2 ^ 12) ∧
  (n = 0x70 → v.toNat < 8 ∧ v.getLsbD 0 = c.prqReq ∧ v.getLsbD 1 = c.prqSched ∧ (v.getLsbD 2 = true ↔ draining c)) ∧
  (∀ i : Fin 4, n = 0x80 + i → v = c.bpa[i]) ∧ (∀ i : Fin 4, n = 0x84 + i → v = c.wpa[i])

/-- R15, R73: `csrr` reads a CSR in SYSTEM mode, or one that is not marked "none" in TASK mode. -/
def csrValues : Prop :=
  ∀ (s : State) (o : OpDC), csrListed o.c.toNat → (csrNone o.c.toNat → s.now.sys = true) →
    s.now.runs o.toGuard (if 0x40 ≤ o.c.toNat ∧ o.c.toNat < 0x44 then [.loops] else []) →
    s.results (.csrr o) o.d (csrReads s o.c.toNat)

/-- R8, R15, R73, R217, R308: `csrw` writes by the access codes: W1C fields of WARN, VUFL, MEFL and FSTATn, those of FSTATn at every home of
the slot's region too, RW registers in SYSTEM mode with their undefined bits zero, REQ of PRQ, which an idle core clears (R75), and
read-only registers not at all. -/
def csrWrites : Prop :=
  ∀ (s : State) (o : OpAC), csrListed o.c.toNat → (¬ csrOpen o.c.toNat → s.now.sys = true) → s.now.runs o.toGuard [bg o.a] →
    let n := o.c.toNat
    let v := s.now.rg o.a
    let x := s.now.ctx
    ∃ c rs, exec (.csrw o) s = .next ({ s with regions := rs }.done fun _ => c) ∧
      rs = s.regions.map (fun r =>
        if ∃ i : Fin 16, n = 0x50 + i ∧ (x.fslots[i]).bound = some r.win ∧ r.part = s.now.seat.part
        then { r with sat := if v.getLsbD 8 then [] else r.sat, ovf := if v.getLsbD 9 then [] else r.ovf } else r) ∧
      (∀ i : Fin 16, c.ctx.fslots[i] = if n = 0x50 + i
        then { x.fslots[i] with sat := (x.fslots[i]).sat && !v.getLsbD 8, ovf := (x.fslots[i]).ovf && !v.getLsbD 9 }
        else x.fslots[i]) ∧
      c.prqReq = (if n = 0x70 then v.getLsbD 0 && decide (s.now.phase = .running ∨ s.now.phase = .halting) else s.now.prqReq) ∧
      (∀ k, c.ctx.warn.getLsbD k = (x.warn.getLsbD k && !(decide (n = 9) && v.getLsbD k))) ∧
      (∀ k, c.ctx.vufl.getLsbD k = (x.vufl.getLsbD k && !(decide (n = 0xA) && v.getLsbD k))) ∧
      (∀ k, c.mefl.getLsbD k = (s.now.mefl.getLsbD k && !(decide (n = 0xB) && v.getLsbD k))) ∧
      c.ctx.args = (if n = 3 then v else x.args) ∧ c.ctx.tcb = (if n = 4 then v else x.tcb) ∧
      c.ctx.tcause = (if n = 0x10 then v &&& 0x170FF else x.tcause) ∧ c.ctx.tpc = (if n = 0x11 then v &&& 0xFFFFFFFFFFFC else x.tpc) ∧
      c.ctx.tinfo = (if n = 0x12 then v else x.tinfo) ∧ c.ctx.taddr = (if n = 0x13 then v else x.taddr) ∧
      c.ctx.tvec = (if n = 0x14 then v &&& 0xFFFFFFFFFFFC else x.tvec) ∧ c.ctx.tsave = (if n = 0x15 then v else x.tsave) ∧
      (∀ i : Fin 7, c.ctx.cut[i] = if n = 0x18 + i then v else x.cut[i]) ∧
      (∀ i : Fin 4, c.ctx.loops[i] = if n = 0x40 + i ∧ (x.loops[i]).len ≠ 0
        then { x.loops[i] with
          act := v.getLsbD 63, stg := v.extractLsb' 60 3, iter := v.extractLsb' 28 29, count := v.extractLsb' 0 28 }
        else x.loops[i]) ∧
      (∀ i : Fin 4, c.bpa[i] = if n = 0x80 + i then v &&& 0x8000FFFFFFFFFFFC else s.now.bpa[i]) ∧
      (∀ i : Fin 4, c.wpa[i] = if n = 0x84 + i then v &&& 0xEF00FFFFFFFFFFF8 else s.now.wpa[i]) ∧
      c = { s.now with
        mefl := c.mefl, bpa := c.bpa, wpa := c.wpa, prqReq := c.prqReq
        ctx := { x with
          warn := c.ctx.warn, vufl := c.ctx.vufl, args := c.ctx.args, tcb := c.ctx.tcb, tcause := c.ctx.tcause, tpc := c.ctx.tpc
          tinfo := c.ctx.tinfo, taddr := c.ctx.taddr, tvec := c.ctx.tvec, tsave := c.ctx.tsave, cut := c.ctx.cut
          loops := c.ctx.loops, fslots := c.ctx.fslots } }

/-- R15, R32: `csrr` and `csrw` trap with ILLEGAL for a number that is no CSR, and in TASK mode with PRIV for a CSR marked "none", and
`csrw` for a read-only one, whatever error the register that it names holds. -/
def csrTraps : Prop :=
  ∀ (s : State),
    (∀ o : OpDC, s.now.begins o.toGuard (if 0x40 ≤ o.c.toNat ∧ o.c.toNat < 0x44 then [.loops] else []) →
      (¬ csrListed o.c.toNat → s.traps (.csrr o) { cause := .illegal }) ∧
      (csrNone o.c.toNat → s.now.sys = false → s.traps (.csrr o) { cause := .priv })) ∧
    (∀ o : OpAC, s.now.begins o.toGuard [] →
      (¬ csrListed o.c.toNat → s.traps (.csrw o) { cause := .illegal }) ∧
      (csrListed o.c.toNat → ¬ csrOpen o.c.toNat → s.now.sys = false → s.traps (.csrw o) { cause := .priv }))

/-- R15, R32, R73: `csrr` reads what the CSR holds, in either mode as the table says; `csrw` writes it by the access codes; both trap with
ILLEGAL or PRIV as the number and the mode say. Two clauses are the model's choices: that CSR 0 reads PHYS on the colophon too, where it is 640
(log 47), and that PRQ.REQ written on an idle core stays 0 (log 20). -/
def Obligations.CsrWords : Prop := csrValues ∧ csrWrites ∧ csrTraps

/-! ### System words and traps -/

/-- R74, R79, R81: `nop` has no effect, `ifence` discards the instruction words that the core has cached, and `yield` has no effect
without a request. -/
def plainWords : Prop :=
  ∀ (s : State) (o : Guard), s.now.runs o [] →
    exec (.nop o) s = .next (s.done id) ∧ exec (.ifence o) s = .next (s.done fun c => { c with icache := [] }) ∧
    (s.now.prqReq = false → s.now.prqSched = false → exec (.yield o) s = .next (s.done id))

/-- R80: `tmark` emits one record of UNIT SQ and event 1 with the loop fields and g[A][36:0], and changes no register; with no
sink enabled it has no effect. -/
def traceMark : Prop :=
  ∀ (s : State) (o : OpA), s.now.runs o.toGuard [bg o.a] →
    (s.cur ≠ Config.colophon → exec (.tmark o) s = .next ((s.emit (some s.cur) s.now.seat.part s.cur .sq 1 (s.now.loopTag o.toGuard)
      ((s.now.rg o.a).toNat % 2 ^ 37)).mapCore s.cur Core.advance)) ∧
    (s.silent → exec (.tmark o) s = .next (s.done id))

/-- R75: `halt` in TASK mode starts the core's waits and ends every loop. -/
def haltWord : Prop :=
  ∀ (s : State) (o : Guard), s.now.begins o [] → s.now.sys = false →
    ∃ t, exec (.halt o) s = .next t ∧ onlyCore s t ∧ sameMemory s t ∧ t.now.phase = .halting ∧ t.now.ctx.order = [] ∧
      (∀ n, t.now.ctx.loop n = Loop.idle) ∧
      t.now = { s.now with
        phase := .halting, stalled := false
        ctx := { s.now.ctx with order := [], loops := t.now.ctx.loops } }

/-- R305: the fault record of core `p` stands at key `k` of memory, for a trap that was not nested. -/
def recordStands (s t : State) (p k : Nat) : Prop :=
  let c := s.core p
  let x := c.ctx
  littleEndian t k 8 = x.tcause.toNat ∧ littleEndian t (k + 8) 8 = x.tpc.toNat ∧ littleEndian t (k + 16) 8 = x.tinfo.toNat ∧
  littleEndian t (k + 24) 8 = x.taddr.toNat ∧ (∀ i : Fin 7, littleEndian t (k + 32 + 8 * i) 8 = (x.cut[i]).toNat) ∧
  littleEndian t (k + 88) 4 = (p + c.seat.vx * 2 ^ 16 + c.seat.vy * 2 ^ 21) % 2 ^ 32 ∧ littleEndian t (k + 92) 4 = 0 ∧
  littleEndian t (k + 96) 8 = x.tentry % 2 ^ 64 ∧ littleEndian t (k + 104) 24 = 0

/-- R175, R295, R305: `halt` in SYSTEM mode. Held entries of the core go, its queued stores with data remain, its loops end, and it is on its
way to idle. Its RUNNING task, if it has not faulted before, faults: FRZ is set, the fault record is written at FAULTP, or marked as not
left where FAULTP is misaligned, and the task's other cores are sent STOP. The colophon halts at once (R358). -/
def haltSystemWord : Prop :=
  ∀ (s : State) (o : Guard), s.now.begins o [] → s.now.sys = true →
    let x := s.now.ctx
    let n := s.now.seat.part
    (s.cur = Config.colophon → s.silent →
      exec (.halt o) s = .next (s.setCore s.cur { s.now with phase := .halted, stalled := false })) ∧
    (s.cur ≠ Config.colophon → ∃ t, exec (.halt o) s = .next t ∧ t.now.phase = .halting ∧ t.now.stalled = false ∧ t.now.trap = none ∧
      t.now.ctx = { x with
        sq := x.sq.filter (·.ready), lq := [], vu := { x.vu with queue := [] }, loops := Vector.replicate 4 Loop.idle, order := []
        engMe := { x.engMe with queue := [], run := [] }, engWs := { x.engWs with queue := [], run := [] }
        engCe := { x.engCe with queue := [], run := [], released := [] }, engBank := { x.engBank with queue := [], run := [] } } ∧
      ∀ u, (s.part n).task s.now.seat.tcb = some u → u.st = .running → u.fault = false →
        let faults := fun (left : Bool) => (t.part n).frz = true ∧
          (t.part n).task s.now.seat.tcb = some { u with fault := true, recfail := !left } ∧
          ∀ p ∈ u.cores, (t.core p).prqSched = false ∧ (t.core p).preempt = false ∧
            (p ≠ s.cur → (s.core p).phase = .running ∨ (s.core p).phase = .halting → (t.core p).stop = true)
        (u.faultp = 0 → faults true ∧ sameMemory s t) ∧ (u.faultp.toNat % 128 ≠ 0 → faults false ∧ sameMemory s t) ∧
        (∀ k, u.faultp ≠ 0 → u.faultp.toNat % 128 = 0 → s.silent → s.devPlaces n true u.faultp.toNat 128 = .ok ((run k 128).map .mem) →
          s.devWaits n true u.faultp.toNat 128 = false → s.writable k 128 → Memory.wf s.mem = true → s.cur < 640 →
          faults true ∧ sameOutside s t k 128 ∧ recordStands s t s.cur k))

/-- R74, R75, R79 to R81, R295, R305: `nop`, `ifence`, `yield` without a request, `tmark`, and `halt` in either mode. -/
def Obligations.SystemWords : Prop := plainWords ∧ traceMark ∧ haltWord ∧ haltSystemWord

/-- R294: a trap that is raised in TASK mode and charged to a word enters the handler, with the trap registers, the cut, MODE and
the PC as the rule says. -/
def trapAtOnce : Prop :=
  ∀ (s : State) (p : Nat) (k : TrapInfo), s.mayEnter p → k.q = 0 → trapEntered s (s.raise p k) p k (s.core p).ctx.pc

/-- R294: while some unit has not reached its stop, the trap waits for the TRAP_ENTRY of the core, which enters the handler once every
unit has. -/
def trapAtStop : Prop :=
  ∀ (s : State) (p : Nat) (k : TrapInfo), (s.core p).ctx.tvec ≠ 0 → (s.core p).trap = some k → k.q = 0 →
    ((s.core p).ctx.quiet = true → ∃ t, exec (.trapEntry p) s = .next t ∧ trapEntered s t p k (s.core p).ctx.pc) ∧
    ((s.core p).ctx.quiet = false → exec (.trapEntry p) s = .next s)

/-- R294, R295: with no handler, and for a trap in SYSTEM mode, the core halts: it is on its way to idle, its loops end, its
load, VU and engine queues are empty, and of its queued stores those with data remain. -/
def trapHalts : Prop :=
  ∀ (s : State) (p : Nat) (k : TrapInfo), p ≠ Config.colophon → k.q = 0 →
    ((s.core p).sys = true ∨ ((s.core p).ctx.tvec = 0 ∧ (s.core p).trap = none ∧ s.atStop p)) →
    let u := (s.raise p k).core p
    u.phase = .halting ∧ u.trap = none ∧ u.ctx.order = [] ∧ u.ctx.lq = [] ∧ u.ctx.vu.queue = [] ∧
    u.ctx.sq = (s.core p).ctx.sq.filter (·.ready) ∧ u.ctx.engMe.queue = [] ∧ u.ctx.engCe.queue = [] ∧ u.ctx.engBank.queue = [] ∧
    u.ctx.engWs.queue = [] ∧ ((s.core p).sys = true → u.ctx.tcause = (s.core p).ctx.tcause ∧ u.ctx.tpc = (s.core p).ctx.tpc)

/-- R294, R295: a trap enters the handler at once, or when every unit has reached its stop, and halts the core where there is none or in SYSTEM mode.
An event that cannot occur leaves the state as it is, in the model's own form (log 3). -/
def Obligations.TrapEntry : Prop := trapAtOnce ∧ trapAtStop ∧ trapHalts

/-- The scalar state that a word reads, where an uncorrectable error is found before the word's own checks (R306): registers, predicates, spill
slots, loop engines, barriers and token slots. -/
def scalarReads : Instr → Option (List Bad)
  | .add o | .sub o | .and o | .or o | .xor o | .andn o | .shl o | .shr o | .sar o | .rotl o | .min o | .max o | .minn o | .maxn o
  | .mul o | .mulh o | .mulhn o | .div o | .divn o | .rem o | .remn o | .addw o | .subw o | .mulw o => some [bg o.a, bg o.b]
  | .clz o | .popc o | .sxb o | .sxh o | .sxw o | .zxb o | .zxh o | .zxw o | .jrl o | .wmkGen o => some [bg o.a]
  | .addi o | .andi o | .ori o | .xori o => some [bg o.a]
  | .shli o | .shri o | .sari o => some [bg o.a]
  | .lsh o => some [bg o.d]
  | .cmp o => some (if o.m = 0 then [bg o.a, bg o.b] else [bg o.a, bg o.b, .p])
  | .cmpi o => some [bg o.a]
  | .pand _ | .por _ | .pxor _ | .pandn _ => some [.p]
  | .pnot _ | .pmov _ => some [.p]
  | .sel o => some [bg o.a, bg o.b, .p]
  | .sld o => some [.spill o.s.toNat]
  | .sst o => some [bg o.r]
  | .loop o => some [bg o.a, .loops]
  | .lexit _ => some [.loops]
  | .csrr o => if 0x40 ≤ o.c.toNat ∧ o.c.toNat < 0x44 then some [.loops] else none
  | .jr o | .trap o | .tmark o => some [bg o.a]
  | .ldB o | .ldBz o | .ldH o | .ldHz o | .ldW o | .ldWz o | .ldD o => some [bg o.b]
  | .stB o | .stH o | .stW o | .stD o => some [bg o.b, bg o.r]
  | .fld o => some [bg o.b]
  | .fld2 o => some [bg o.b]
  | .amoAdd o | .amoAnd o | .amoOr o | .amoXor o | .amoMin o | .amoMax o | .amoSwp o | .amoMinn o | .amoMaxn o => some [bg o.a, bg o.b]
  | .amoCas o => some [bg o.a, bg o.b, bg o.d]
  | .barInit o | .barWait o => some [.bars, bg o.a]
  | .barArr _ | .barAw _ => some [.bars]
  | .tokWait o => some [.tok o.i.toNat]
  | .tokTest o => some [.tok o.i.toNat]
  | .tokSnap o => some [.tok o.i.toNat]
  | .tokWaitv o => some [.tok o.i.toNat, bg o.a]
  | .wmkInit o | .wmkWait o | .wmkAdd o => some [bg o.a, bg o.b]
  | .wmkTest o => some [bg o.a, bg o.b]
  | _ => none

/-- R306, R368: a word whose guard reads predicates that hold an uncorrectable error traps with MEMERR and TINFO 1, and so does every scalar
word whose guard is true and that reads such a register, predicate, spill slot, loop engine, barrier or token slot, and every word that goes on
past the end of a body, or leaves one, where the loop state holds the error: the words of a false guard, those of the ALU and the branches are
stated. The error is reported to the host as UNCORR, with the loop fields of the word (R321). That g[D] counts as read by `amo.cas` alone, and that the predicates are
one protected unit, is the model's choice (log 47). -/
def Obligations.StateErrors : Prop :=
  ∀ (s : State),
    (∀ (i : Instr) (g : Guard), guardOfWord i = some g → g.g ≠ 0 → Bad.p ∈ s.now.bad →
      (missingAtColophon i = true → s.cur ≠ Config.colophon) → exec i s = .next (s.raiseBad g)) ∧
    (∀ (i : Instr) (g : Guard) (l : List Bad), guardOfWord i = some g → scalarReads i = some l → (∃ b ∈ l, b ∈ s.now.bad) →
      s.now.begins g [] → (missingAtColophon i = true → s.cur ≠ Config.colophon) → exec i s = .next (s.raiseBad g)) ∧
    (∀ (i : Instr) (g : Guard), guardOfWord i = some g → s.now.passes g = false → (g.g ≠ 0 → Bad.p ∉ s.now.bad) →
      (missingAtColophon i = true → s.cur ≠ Config.colophon) → s.now.meetsLoops (s.now.ctx.pc + 4) = true → exec i s = .next (s.raiseBad g)) ∧
    (s.now.meetsLoops (s.now.ctx.pc + 4) = true →
      (∀ o : OpDAB, s.now.begins o.toGuard [bg o.a, bg o.b] → ∀ i ∈ [Instr.add o, .sub o, .and o, .or o, .xor o, .andn o, .shl o, .shr o, .sar o,
        .rotl o, .min o, .max o, .minn o, .maxn o, .mul o, .mulh o, .mulhn o, .div o, .divn o, .rem o, .remn o, .addw o, .subw o, .mulw o],
        exec i s = .next (s.raiseBad o.toGuard)) ∧
      (∀ o : Guard, s.now.begins o [] → exec (.nop o) s = .next (s.raiseBad o))) ∧
    (∀ o : OpB, s.now.begins o.toGuard [] → ∀ t : BitVec 48, (t.toNat : Int) = ((s.now.ctx.pc.toNat : Int) + 4 * o.o.toInt) % 2 ^ 48 →
      s.now.meetsLoops t = true → ∀ i ∈ [Instr.br o, .call o], exec i s = .next (s.raiseBad o.toGuard)) ∧
    ∀ g, s.cur < 640 → s.mayEnter s.cur → s.silent →
      let t := s.raiseBad g
      let l := s.now.loopTag g
      trapEntered s t s.cur { cause := .memerr, tinfo := 1 } s.now.ctx.pc ∧
      (∃ w : Word, t.devevt = s.devevt ++ [w] ∧
        w.toNat = 0x39 * 2 ^ 56 + l.lid.toNat * 2 ^ 54 + l.iter.toNat * 2 ^ 40 + l.stg.toNat * 2 ^ 37 ∧
        (s.now.ctx.order = [] → w.toNat = 0x39 * 2 ^ 56 + 7 * 2 ^ 37)) ∧
      16 ∈ t.msi ∧ sameMemory s t ∧ ∀ p, p ≠ s.cur → t.core p = s.core p

/-- R76, R78: `trap` enters the handler with TRAPI, TINFO g[A] and TPC after the word, and an unclaimed core's `brk` with BREAK and
TPC at the word. -/
def Obligations.TrapWords : Prop :=
  ∀ (s : State), s.mayEnter s.cur → s.now.ctx.order = [] →
    (∀ o : OpA, s.now.runs o.toGuard [bg o.a] →
      ∃ t, exec (.trap o) s = .next t ∧
        trapEntered (s.done id) t s.cur { cause := .trapi, tinfo := s.now.rg o.a } (s.now.ctx.pc + 4)) ∧
    (∀ o : Guard, s.now.runs o [] → s.now.dbg.claim = false →
      ∃ t, exec (.brk o) s = .next t ∧ trapEntered s t s.cur { cause := .brk } s.now.ctx.pc)

/-- R77, R303: `eret` in TASK mode traps with PRIV; in SYSTEM mode, once every access since trap entry has performed, it sets MODE to
TASK and the PC to TPC, with the general registers, predicates, queued stores and trap registers as they stand. With DROP it drops the
entry that the trap was charged to: the oldest load, the head of the VU's queue, or the faulted engine command with the lowest number,
whose token counts. The colophon goes on at TPC and stays in SYSTEM mode (R358). -/
def Obligations.ReturnWord : Prop :=
  ∀ (s : State) (o : Guard), s.now.begins o [] →
    let x := s.now.ctx
    (s.now.sys = false → s.traps (.eret o) { cause := .priv }) ∧
    (s.now.sys = true → (∃ e ∈ x.sq, x.tseq ≤ e.seq) → s.waits (.eret o)) ∧
    (s.now.sys = true → (∀ e ∈ x.sq, e.seq < x.tseq) → s.cur = Config.colophon → s.silent →
      exec (.eret o) s = .next (s.setCore s.cur { s.now with
        stalled := false, ctx := { x with pc := x.tpc.setWidth 48, words := x.words + 1 } })) ∧
    (s.now.sys = true → (∀ e ∈ x.sq, e.seq < x.tseq) → s.cur ≠ Config.colophon → ∃ t, exec (.eret o) s = .next t ∧
      let y := t.now.ctx
      let q := x.tcause.toNat / 2 ^ 12 % 8
      let drop := x.tcause.getLsbD 16
      y.mode = .task ∧ y.pc = x.tpc.setWidth 48 ∧ t.now.stalled = false ∧ y.g = x.g ∧ (x.refilling = false → y.p = x.p) ∧
      y.sq = x.sq ∧ y.tcause = x.tcause ∧ y.tpc = x.tpc ∧ y.tvec = x.tvec ∧
      (drop = false → y.lq = x.lq ∧ y.vu = x.vu ∧ y.tok = x.tok) ∧
      (drop = true → q = 1 → ∀ l rest, x.lq = l :: rest → y.lq = { l with dropped := true } :: rest ∧ y.vu = { x.vu with
        queue := x.vu.queue.map fun e => if e.load = some l.num then { e with dropped := true } else e }) ∧
      (drop = true → q = 2 → ∀ e rest, x.vu.queue = e :: rest →
        y.lq = x.lq ∧ y.vu = { x.vu with queue := { e with dropped := true } :: rest }) ∧
      (∀ (n : EngQ) (k : Cmd) (f : TrapInfo), drop = true → EngQ.ofCode q = some n → k.st = .faulted f → k ∈ (x.eng n).run →
        (∀ r ∈ (x.eng n).run, (∃ f, r.st = .faulted f) → r = k ∨ k.entry < r.entry) →
        ((x.eng n).run ++ (x.eng n).released).filter (fun r => r.entry == k.entry) = [k] →
        y.lq = x.lq ∧ y.vu = x.vu ∧ tokenCompletes x y k.tp k.place ∧
        ∀ r ∈ (y.eng n).run ++ (y.eng n).queue ++ (y.eng n).released, r.num ≠ k.num))

/-- R302, R358: in SYSTEM mode a vector word, a `vctl` word or an engine command raises PRIV, whatever error its registers hold, and the colophon traps them with ILLEGAL. -/
def Obligations.HeldQueueWords : Prop :=
  ∀ (s : State),
    (s.cur = Config.colophon → (∀ i, missingAtColophon i = true → s.traps i { cause := .illegal }) ∧
      ∀ (op : VOp) (o : OpV), s.traps (op.instr o) { cause := .illegal }) ∧
    (s.cur ≠ Config.colophon → s.now.sys = true →
      (∀ (op : VOp) (o : OpV), s.traps (op.instr o) { cause := .priv }) ∧
      (∀ o : OpE, s.now.begins o.toGuard [] →
        ∀ i ∈ [Instr.mload o, .mswap o, .mcfg o, .mgo o, .mstream o, .mdrain o, .mzero o, .mmode o, .wtab o, .wstream o, .cpy o,
          .cnest o, .cmc o, .cacc o, .cgat o, .csct o, .cstage o, .fbind o, .ftick o, .walk o], s.traps i { cause := .priv }) ∧
      (∀ o : Guard, s.now.begins o [] → s.traps (.vfence o) { cause := .priv }) ∧
      (∀ o : OpP, s.now.begins o.toGuard [] → s.traps (.vbusy o) { cause := .priv }) ∧
      (∀ o : OpA, s.now.begins o.toGuard [] → s.traps (.vmode o) { cause := .priv }) ∧
      (∀ o : OpD, s.now.begins o.toGuard [] → s.traps (.vtake o) { cause := .priv }))

/-! ### Memory -/

/-- R59: a scalar load or store of `n` bytes at `ea` with the kind of access `a` traps with ALIGN, then XMISS for an address of 2^48 or more,
then as the checks of R182 say, with TADDR the effective address and no effect; a read of a window word that no registered region covers
traps with FILTER 3 (R211). -/
def scalarTraps : Prop :=
  ∀ (s : State) (o : OpM) (n : Nat) (ea : Word), isEffAddr (s.now.rg o.b) o.o n ea →
    let kinds : Instr → Option (Nat × AKind) := fun
      | .ldB _ | .ldBz _ => some (1, { rd := true }) | .ldH _ | .ldHz _ => some (2, { rd := true })
      | .ldW _ | .ldWz _ => some (4, { rd := true, win := true }) | .ldD _ => some (8, { rd := true, s8 := true })
      | .stB _ => some (1, { wr := true }) | .stH _ => some (2, { wr := true })
      | .stW _ => some (4, { wr := true, win := true }) | .stD _ => some (8, { wr := true, s8 := true })
      | _ => none
    s.now.begins o.toGuard [bg o.b, bg o.r] →
    ∀ (i : Instr) (a : AKind), i ∈ [Instr.ldB o, .ldBz o, .ldH o, .ldHz o, .ldW o, .ldWz o, .ldD o, .stB o, .stH o, .stW o, .stD o] →
      kinds i = some (n, a) →
      (ea.toNat % n ≠ 0 → s.traps i { cause := .align, taddr := ea }) ∧
      (ea.toNat % n = 0 → 2 ^ 48 ≤ ea.toNat → s.traps i { cause := .xmiss, taddr := ea }) ∧
      (∀ c ti, ea.toNat % n = 0 → ea.toNat < 2 ^ 48 → s.check s.cur a ea.toNat n = .trap c ti → s.trapsAt i ea { cause := c, tinfo := ti }) ∧
      (∀ va k, a.rd = true → ea.toNat % n = 0 → ea.toNat < 2 ^ 48 → s.check s.cur a ea.toNat n = .ok (.window va k) →
        s.regionAt s.now.seat.part k = none → s.trapsAt i ea { cause := .filter, tinfo := 3 })

/-- R163, R181, R182, R343, R367: what the address ranges outside the translated ones give a load, store or atomic of a core. -/
def rangeChecks : Prop :=
  ∀ (s : State) (p va n : Nat) (a : AKind), p ≠ Config.colophon → a.ex = false →
    let t := (s.core p).seat
    let traps := fun (c : Cause) => s.check p a va n = .trap c 0
    let off := va % 2 ^ 20
    let base := t.needs.toNat % 2 ^ 8 * 4096
    let inBounds := off < 0xC0000 ∧ if t.needs = 0 then off + n ≤ 0xC0000
      else base ≤ off ∧ off + n ≤ base + t.needs.toNat / 2 ^ 8 % 2 ^ 8 * 4096
    (0x800000000000 ≤ va → va < 0xC00000000000 →
      (s.route (BitVec.ofNat 10 (va / 2 ^ 36)) = true → s.check p a va n = .ok (.peer va)) ∧
      (s.route (BitVec.ofNat 10 (va / 2 ^ 36)) = false → traps .xmiss)) ∧
    (0xC00000000000 ≤ va → va < 0xFC0000000000 → traps .xmiss) ∧ (0xFC0000000000 ≤ va → va < 0xFC0020000000 → traps .window) ∧
    (0xFC0020000000 ≤ va → va < 0xFE0000000000 → traps .xmiss) ∧ (0xFF0001000000 ≤ va → va < 0xFFFF00000000 → traps .xmiss) ∧
    (0xFF0000000000 ≤ va → va < 0xFF0001000000 →
      (¬ inBounds ∨ 0xFF0000500000 ≤ va → traps .window) ∧
      (inBounds → 0xFF0000400000 ≤ va → va < 0xFF0000500000 → s.check p a va n = .ok (.mem (2 ^ 49 + p * 2 ^ 20 + off))) ∧
      (inBounds → va < 0xFF0000400000 →
        let m := va / 2 ^ 20 % 16
        let vx := t.vx - t.vx % 2 + m % 2
        let vy := t.vy - t.vy % 2 + m / 2
        (¬ (vx < 2 ^ t.lw ∧ vy < 2 ^ t.lh) → traps .window) ∧
        (vx < 2 ^ t.lw → vy < 2 ^ t.lh → ∀ q, q + t.vx + 40 * t.vy = p + vx + 40 * vy → t.vx + 40 * t.vy ≤ p →
          s.check p a va n = .ok (.mem (2 ^ 49 + q * 2 ^ 20 + off))))) ∧
    (0xFFFF00000000 ≤ va → va < 2 ^ 48 →
      let o := va - 0xFFFF00000000
      let among := fun (l : List (Nat × Nat)) => ∃ e ∈ l, e.1 ≤ o ∧ o ≤ e.2
      let mine := among [(0x10000, 0x1FFFF), (0x20000, 0x213FF), (0x30000, 0x30FFF), (0x80000, 0x2FFFFF)]
      let host := among [(0x40000, 0x413FF), (0x50000, 0x507FF), (0x70000, 0x701FF), (0x1000000, 0xAFFFFFF), (0x10000000, 0x19FFFFFF),
        (0xC0000000, 0xC0000FFF)]
      let device := among [(0x60000, 0x60FFF)]
      ((s.core p).ctx.mode = .task → traps .priv) ∧
      ((s.core p).ctx.mode = .system → (a.s8 = false → traps .xperm) ∧
        (a.s8 = true → (mine ∨ (device ∧ a.wr = false) → s.check p a va n = .ok (.mmio va)) ∧ (host ∨ (device ∧ a.wr = true) → traps .xperm) ∧
          (¬ mine → ¬ host → ¬ device → traps .xmiss))))

/-- R183, R184: the walk of the tables below the physical address `t`, by index and page bits: the keys of the entries read, and the leaf
found with its page bits, none where an entry is not valid or malformed. -/
def tableRead (s : State) (va : Nat) : List (Nat × Nat) → Nat → List Nat × Option (Nat × Nat)
  | [], _ => ([], none)
  | (lo, w) :: more, t =>
    let k := t + 8 * (va / 2 ^ lo % 2 ^ w)
    let x := littleEndian s k 8
    let next := x / 2 ^ 8 % 2 ^ 40 * 2 ^ 8
    if x % 2 = 0 ∨ x / 2 ^ 60 ≠ 0 ∨ x / 2 ^ 48 % 2 ^ 5 ≠ 0 ∨ x / 2 ^ 2 % 2 ^ 6 ≠ 0 then ([k], none)
    else if x / 2 % 2 = 1 then ([k], some (x, lo))
    else if Config.hbmBytes < next + 256 then ([k], none)
    else
      let r := tableRead s va more next
      (k :: r.1, r.2)

/-- R184: the leaf `x` of a page of 2^`sh` bytes at `va` is malformed. -/
def leafMalformed (va x sh : Nat) : Prop :=
  let addr := x / 2 ^ 8 % 2 ^ 40 * 2 ^ 8
  let tgt := x / 2 ^ 58 % 4
  let spine := 0xFE0000000000 ≤ va ∧ va < 0xFF0000000000
  addr % 2 ^ sh ≠ 0 ∨ tgt = 3 ∨ ¬ (tgt = 1 ↔ spine) ∨ (tgt = 1 ∧ (21 < sh ∨ addr / 2 ^ 28 ≠ 0)) ∨
  (tgt = 0 ∧ Config.hbmBytes < addr + 2 ^ sh)

/-- R182 to R186: what a page gives an access of a core, with no translation held and tables without errors that lie in no unit which is lent
out: XMISS where no well-formed leaf maps the address, XPERM where the leaf lacks a permission, or names a bank outside the mask, then the
page types, in this order; else the place in HBM, in the spine store or in a live lease that the leaf gives (R348). -/
def pageChecks : Prop :=
  ∀ (s : State) (p va n : Nat) (a : AKind), p ≠ Config.colophon → a.dev = false →
    va < 0x800000000000 ∨ (0xFE0000000000 ≤ va ∧ va < 0xFF0000000000 ∧ a.ex = false) →
    let q := s.part (s.core p).seat.part
    let traps := fun (c : Cause) (ti : Word) => s.check p a va n = .trap c ti
    let r := tableRead s va [(31, 17), (26, 5), (21, 5), (16, 5)] q.rootNow.toNat
    q.tlb = [] → (∀ k ∈ r.1, k + 8 ≤ Config.hbmBytes ∧ s.lentOut k = false ∧ s.clean k 8) →
    (r.2 = none → traps .xmiss 0) ∧
    ∀ x sh, r.2 = some (x, sh) →
      let pa := x / 2 ^ 8 % 2 ^ 40 * 2 ^ 8 + va % 2 ^ sh
      let type := x / 2 ^ 56 % 4
      let tgt := x / 2 ^ 58 % 4
      let bank := pa / 2 ^ 21 % 2 ^ 7
      let barred := (a.rd = true ∧ x.testBit 53 = false) ∨ (a.wr = true ∧ x.testBit 54 = false) ∨ (a.ex = true ∧ x.testBit 55 = false) ∨
        (tgt = 1 ∧ (if bank < 64 then q.banks0.getLsbD bank else q.banks1.getLsbD (bank - 64)) = false)
      (leafMalformed va x sh → traps .xmiss 0) ∧
      (¬ leafMalformed va x sh →
        (barred ∨ (a.ex = true ∧ type ≠ 0) → traps .xperm 0) ∧
        (¬ barred → ¬ (a.ex = true ∧ type ≠ 0) →
          (type = 2 → a.bare = false → traps .filter 2) ∧ (type = 3 → a.wr = true → traps .xperm 0) ∧
          (type = 1 → a.win = false → traps .filter 1) ∧
          (type ≠ 2 → ¬ (type = 3 ∧ a.wr = true) → ¬ (type = 1 ∧ a.win = false) →
            (tgt = 0 → s.lentOut pa = true → traps .xperm 0) ∧
            (tgt ≠ 2 → (tgt = 0 → s.lentOut pa = false) →
              let key := if tgt = 1 then 2 ^ 48 + pa % 2 ^ 28 else pa
              s.check p a va n = .ok (if type = 1 then .window va key else .mem key)) ∧
            (tgt = 2 →
              let l := s.lease (pa / 2 ^ 31 % 64)
              let live := l.role = true ∧ (l.st = 2 ∨ l.st = 3) ∧ l.part = (s.core p).seat.part ∧
                (if p % 40 < 20 then s.time[0] else s.time[1]) < l.deadline.toNat
              (live → s.check p a va n =
                .ok (if type = 1 then .window va (2 ^ 53 + pa) else .lease (pa / 2 ^ 31 % 64) (pa % 2 ^ 31))) ∧ (¬ live → traps .lease 1)))))

/-- R59, R163, R181 to R186, R211, R343, R348, R367: the traps of scalar loads and stores in their order, and what the checks of R182 are: the
address ranges, the page tables, the permissions and the page types. That a lease which is not live traps with LEASE on a filter-window page
too, and that the words of such a page in a live lease have a number of their own, under which no region stands, is the model's choice (log
60). -/
def Obligations.AccessTraps : Prop := scalarTraps ∧ rangeChecks ∧ pageChecks

/-- The scalar loads of R60: size, kind of access, and what they make of the little-endian number read. -/
def loadForms (o : OpM) : List (Instr × Nat × AKind × (Nat → Word → Prop)) :=
  [(.ldB o, 1, { rd := true }, fun m v => v.toInt = (m : Int).bmod (2 ^ 8)), (.ldBz o, 1, { rd := true }, fun m v => v.toNat = m),
    (.ldH o, 2, { rd := true }, fun m v => v.toInt = (m : Int).bmod (2 ^ 16)), (.ldHz o, 2, { rd := true }, fun m v => v.toNat = m),
    (.ldW o, 4, { rd := true, win := true }, fun m v => v.toInt = (m : Int).bmod (2 ^ 32)),
    (.ldWz o, 4, { rd := true, win := true }, fun m v => v.toNat = m), (.ldD o, 8, { rd := true, s8 := true }, fun m v => v.toNat = m)]

/-- R344, R348: a load of `n` bytes leaves for a peer or a lender as a message with the address `at_`: the answer, which carries TIME, gives the
value, or one of the refusals, each with its cause and TINFO. What a peer answers is free (log 5). -/
def answered (s : State) (i : Instr) (o : OpM) (n : Nat) (ea at_ : Word) (refusals : List (Nat × Cause × Word)) (P : Nat → Word → Prop) : Prop :=
  let code := (Config.peerRefusal s.free).toNat
  ∃ u : State, ({ s with outbox := s.outbox ++ [⟨at_, s.now.seat.part, .read n⟩], free := s.free + 3 } : State).timed u ∧
    (s.tripped = false → ∀ d : Fin 2, (Config.freeWord (s.free + 1)).toNat < u.time[d]) ∧
    (∀ e ∈ refusals, code = e.1 →
      exec i s = .next (u.raise s.cur (s.trapOf o.toGuard { cause := e.2.1, tinfo := e.2.2, taddr := ea }))) ∧
    ((∀ e ∈ refusals, code ≠ e.1) →
      ∃ v, P ((Config.peerWord (s.free + 2)).toNat % 256 ^ n) v ∧ exec i s = .next (u.done (·.setG o.r v)))

/-- R60, R211, R308, R344, R348: with no earlier access under way and page tables without errors, a load completes with the little-endian value
of its bytes, sign- or zero-extended: of error-free memory, of the output of a window word's cell, or of a register (PRQ here); a load from a
peer or a lender sends its message and takes the answer. Of this package only TIME may move, where the request or its walk crosses the dies
(R319). -/
def Obligations.LoadWords : Prop :=
  ∀ (s : State) (o : OpM) (i : Instr) (n : Nat) (a : AKind) (P : Nat → Word → Prop) (ea : Word), (i, n, a, P) ∈ loadForms o →
    s.now.runs o.toGuard [bg o.b] → s.still → isEffAddr (s.now.rg o.b) o.o n ea → ea.toNat % n = 0 → ea.toNat < 2 ^ 48 →
    s.now.watch true false (run ea.toNat n) = .go → s.walksFine (run ea.toNat n) →
    let chk := s.check s.cur a ea.toNat n
    let loads := fun (m : Nat) => ∃ u : State, s.timed u ∧ ∃ v, P m v ∧ exec i s = .next (u.done (·.setG o.r v))
    (∀ k, chk = .ok (.mem k) → s.lentOut k = false → s.clean k n → loads (littleEndian s k n)) ∧
    (∀ va k r j, chk = .ok (.window va k) → s.regionAt s.now.seat.part k = some (r, j) → s.lentOut (r.back j) = false →
      s.clean (r.back j) 32 → loads (littleEndian s (r.back j) 4)) ∧
    (∀ p < 640, chk = .ok (.mmio (0xFFFF00020000 + 8 * p)) → ∀ m < 8, m.testBit 0 = (s.core p).prqReq → m.testBit 1 = (s.core p).prqSched →
      (m.testBit 2 = true ↔ draining (s.core p)) → loads m) ∧
    (∀ va, chk = .ok (.peer va) → va / 2 ^ 36 % 2 ^ 10 ≠ s.pkgid.toNat →
      answered s i o n ea (BitVec.ofNat 64 va) [(4, .xmiss, 1), (5, .xperm, 1), (7, .filter, 1), (8, .memerr, 1)] P) ∧
    (∀ e off, chk = .ok (.lease e off) → answered s i o n ea (BitVec.ofNat 64 (e * 2 ^ 31 + off)) [(8, .memerr, 1), (0xB, .lease, 2)] P)

/-- R26, R61: a store that passes its checks, with page tables without errors, enters the store queue with the low bytes of g[S], every byte enabled, and changes no
memory yet; a store of the colophon to a register whose engine is busy waits (R358). -/
def Obligations.StoreWords : Prop :=
  ∀ (s : State) (o : OpM) (n : Nat) (ea : Word) (a : AKind) (pl : Place), s.now.runs o.toGuard [bg o.b, bg o.r] →
    isEffAddr (s.now.rg o.b) o.o n ea → ea.toNat % n = 0 → ea.toNat < 2 ^ 48 → s.check s.cur a ea.toNat n = .ok pl →
    s.now.watch false true (run ea.toNat n) = .go → s.walksFine (run ea.toNat n) →
    let x := s.now.ctx
    let stores := fun (i : Instr) =>
      (s.coloHolds s.now pl = false → ∃ (u : State) (d : Word), s.timed u ∧ d.toNat = (s.now.rg o.r).toNat % 256 ^ n ∧
        exec i s = .next (u.done fun c => { c with ctx := { x with
          sq := x.sq ++ [⟨x.seq, o.c, .plain, [⟨ea, pl, n, true, d, false⟩], true, 0, none, s.now.loopTag o.toGuard⟩]
          seq := x.seq + 1 } })) ∧
      (s.coloHolds s.now pl = true → s.waits i)
    (n = 1 → a = { wr := true } → stores (.stB o)) ∧ (n = 2 → a = { wr := true } → stores (.stH o)) ∧
    (n = 4 → a = { wr := true, win := true } → stores (.stW o)) ∧ (n = 8 → a = { wr := true, s8 := true } → stores (.stD o))

/-- R26, R61: a queued scalar store that may perform writes its bytes, little-endian, at the place of its access, leaves the
queue, and changes no other byte of memory and no register. -/
def Obligations.StorePerforms : Prop :=
  ∀ (s : State) (p k : Nat) (e : SEntry) (rest : List SEntry) (q : Piece), (s.core p).ctx.sq = e :: rest →
    (∀ r ∈ rest, r.seq ≠ e.seq) → e.kind = .plain → e.pieces = [q] → q.place = .mem k → q.en = true → q.done = false →
    s.storeFree p e 0 q = true → s.writable k q.n → 0 < q.n → Memory.wf s.mem = true →
    ∃ t, exec (.storePerform p e.seq 0) s = .next t ∧
      (∀ a, Memory.get t.mem a = if k ≤ a ∧ a < k + q.n then BitVec.ofNat 8 (q.data.toNat / 256 ^ (a - k)) else Memory.get s.mem a) ∧
      (t.core p).ctx.sq = rest ∧ (t.core p).ctx = { (s.core p).ctx with sq := rest } ∧
      ∀ r, r ≠ p → t.core r = s.core r

/-- op(old, b, x) of R190, by OP − 0x20. -/
def atomicResult (op : Nat) (old b x new : Word) : Prop :=
  match op with
  | 0 => new.toNat = (old.toNat + b.toNat) % 2 ^ 64
  | 1 => ∀ k, new.getLsbD k = (old.getLsbD k && b.getLsbD k)
  | 2 => ∀ k, new.getLsbD k = (old.getLsbD k || b.getLsbD k)
  | 3 => ∀ k, new.getLsbD k = (old.getLsbD k != b.getLsbD k)
  | 4 => new.toInt = min old.toInt b.toInt
  | 5 => new.toInt = max old.toInt b.toInt
  | 6 => new = b
  | 7 => new = if old.toNat = x.toNat then b else old
  | 8 => new.toNat = min old.toNat b.toNat
  | _ => new.toNat = max old.toNat b.toNat

/-- The atomic words by OP − 0x20. -/
def atomicWord (op : Nat) (o : OpAmo) : Instr :=
  match op with
  | 0 => .amoAdd o | 1 => .amoAnd o | 2 => .amoOr o | 3 => .amoXor o | 4 => .amoMin o | 5 => .amoMax o | 6 => .amoSwp o
  | 7 => .amoCas o | 8 => .amoMinn o | _ => .amoMaxn o

/-- R190: with no earlier access under way, each of the ten `amo` words with D ≠ g0 on an error-free doubleword of memory sets g[D]
to the old value and the doubleword to op(old, b, x), and changes no other byte and no other register. That g[D] counts as read by
`amo.cas` alone is the model's choice (log 47). -/
def amoResults : Prop :=
  ∀ (s : State) (op : Nat) (o : OpAmo) (k : Nat), op < 10 → o.d ≠ 0 →
    s.onCore o.toGuard (if op = 7 then [bg o.a, bg o.b, bg o.d] else [bg o.a, bg o.b]) → s.still →
    let ea := s.now.rg o.a
    ea.toNat % 8 = 0 → ea.toNat < 2 ^ 48 → s.check s.cur { rd := true, wr := true } ea.toNat 8 = .ok (.mem k) →
    s.now.watch true true (run ea.toNat 8) = .go → s.walksFine (run ea.toNat 8) → s.writable k 8 → Memory.wf s.mem = true →
    ∃ (old new : Word) (u : State), old.toNat = littleEndian s k 8 ∧ atomicResult op old (s.now.rg o.b) (s.now.rg o.d) new ∧
      exec (atomicWord op o) s = .next (u.done (·.setG o.d old)) ∧
      s.timed { u with mem := s.mem, hbm := s.hbm, memBad := s.memBad, memSoft := s.memSoft } ∧
      ∀ a, Memory.get u.mem a = if k ≤ a ∧ a < k + 8 then BitVec.ofNat 8 (new.toNat / 256 ^ (a - k)) else Memory.get s.mem a

/-- R190, R191: each `red` word (D = g0) enters the store queue with its scope, to do op(old, b, 0) at its home, and does not hold the
sequencer; its checks are those of a load and a store. -/
def redQueues : Prop :=
  ∀ (s : State) (op : Nat) (o : OpAmo), op < 10 → o.d = 0 → s.onCore o.toGuard [bg o.a, bg o.b, bg o.d] →
    let ea := s.now.rg o.a
    let x := s.now.ctx
    (ea.toNat % 8 ≠ 0 → s.traps (atomicWord op o) { cause := .align, taddr := ea }) ∧
    (∀ pl, ea.toNat % 8 = 0 → ea.toNat < 2 ^ 48 → s.check s.cur { rd := true, wr := true } ea.toNat 8 = .ok pl →
      s.now.watch false true (run ea.toNat 8) = .go → s.walksFine (run ea.toNat 8) →
      ∃ (u : State) (sc : BitVec 3), s.timed u ∧ (∀ k, pl = .mem k → sc = o.s.setWidth 3) ∧
      exec (atomicWord op o) s = .next (u.done fun c => { c with ctx := { x with
        sq := x.sq ++ [⟨x.seq, o.c, .red (BitVec.ofNat 4 op) 0, [⟨ea, pl, 8, true, s.now.rg o.b, false⟩], true, 0, some sc,
          s.now.loopTag o.toGuard⟩]
        seq := x.seq + 1 } }))

/-- R190, R191: the ten `amo` words with a destination, and the same words without one. -/
def Obligations.AtomicWords : Prop := amoResults ∧ redQueues

/-- R48, R193: a `fence` with nothing under way completes with no effect; an empty mask and a scope code of 5 to 7 set W_FENCE, and an
empty mask waits for nothing. A queued store of a masked class whose home lies in the scope holds the fence back. A wait leaves
the core at the word, in the model's own form (log 3). -/
def Obligations.FenceWords : Prop :=
  ∀ (s : State) (o : OpFence), s.now.runs o.toGuard [] →
    (s.still ∨ o.m = 0 → ∃ c, exec (.fence o) s = .next (s.done fun _ => c) ∧
      c = { s.now with ctx := { s.now.ctx with
        warn := if o.m = 0 ∨ 5 ≤ o.s.toNat then s.now.ctx.warn ||| 64 else s.now.ctx.warn } }) ∧
    (∀ e ∈ s.now.ctx.sq, e.seq < s.now.ctx.seq → s.now.sys = false → o.m.getLsbD e.cls.toNat = true →
      (∃ q ∈ e.pieces, q.done = false ∧ q.en = true ∧ s.covers s.cur (min o.s.toNat 4) (s.homeAt q.place) = true) →
      s.waits (.fence o))

/-- The value that a read of tap `t` returns, from the 32 bytes of the backing entry at key `k` (R208). -/
def tapOf (s : State) (k : Nat) (t : BitVec 3) (v : Word) : Prop :=
  let le := fun o n => littleEndian s (k + o) n
  (t = 0 → v.toInt = (le 0 4 : Int).bmod (2 ^ 32)) ∧ (t = 1 → v.toInt = (le 4 4 : Int).bmod (2 ^ 32)) ∧
  (t = 2 → v.toInt = (le 8 4 : Int).bmod (2 ^ 32)) ∧ (t = 3 → v.toInt = (le 12 4 : Int).bmod (2 ^ 32)) ∧
  (t = 4 → v.toInt = (le 16 4 : Int).bmod (2 ^ 32)) ∧ (t = 5 → v.toInt = (le 20 6 : Int).bmod (2 ^ 48)) ∧
  (t = 6 → v.toNat = le 26 2) ∧ (t = 7 → v.toNat = le 28 4)

/-- R208, R223: `fld` and `fld2` of a registered window word read the taps of its cell; W_TAP for nonzero unused bits, and for an `fld2`
that names g31. For both an unregistered word traps with FILTER 3, and any other page with FILTER 4. The backing entry lies in no unit
that is lent out, and the page tables are without errors. -/
def Obligations.TapWords : Prop :=
  ∀ (s : State) (va k j : Nat) (r : Region), s.still →
    let part := s.now.seat.part
    let chk := fun (ea : Word) => s.check s.cur { rd := true, win := true } ea.toNat 4
    let traps := fun (i : Instr) (ea : Word) => ea.toNat % 4 = 0 → ea.toNat < 2 ^ 48 →
      (chk ea = .ok (.window va k) → s.regionAt part k = none → s.trapsAt i ea { cause := .filter, tinfo := 3 }) ∧
      (chk ea = .ok (.mem k) → s.trapsAt i ea { cause := .filter, tinfo := 4 })
    let reads := fun (ea : Word) => ea.toNat % 4 = 0 ∧ ea.toNat < 2 ^ 48 ∧ chk ea = .ok (.window va k) ∧
      s.regionAt part k = some (r, j) ∧ s.lentOut (r.back j) = false ∧ s.clean (r.back j) 32 ∧
      s.now.watch true false (run ea.toNat 4) = .go ∧ s.walksFine (run ea.toNat 4)
    (∀ (o : OpFld), s.onCore o.toGuard [bg o.b] → traps (.fld o) (s.now.rg o.b) ∧
      (reads (s.now.rg o.b) → ∃ (u : State) (v : Word), s.timed u ∧ tapOf s (r.back j) o.t v ∧
        exec (.fld o) s = .next (u.done fun c => (if o.u ≠ 0 then c.warn wTap else c).setG o.d v))) ∧
    (∀ (o : OpFld2), s.onCore o.toGuard [bg o.b] → traps (.fld2 o) (s.now.rg o.b) ∧
      (reads (s.now.rg o.b) → ∃ (u : State) (v w : Word), s.timed u ∧ tapOf s (r.back j) o.t v ∧ tapOf s (r.back j) o.s w ∧
        exec (.fld2 o) s = .next (u.done fun c =>
          ((if o.u ≠ 0 ∨ o.d = 31 then c.warn wTap else c).setG o.d v).setG (o.d + 1) w)))

/-! ### The vector unit -/

/-- R18, R47: a vector word that accesses no memory is handed to the VU's queue with g[GS] and g[GT] as they stand, while fewer than 32
entries wait; with a full queue the sequencer stalls. The word of opcode `op` is `op.instr o`: `vadd` `vsub` `vmul` `vfma` `vfms` `vmin`
`vmax` `vabs` `vneg` `vadds` `vmuls` `vfmas` `vrcp` `vrsq` `vexp2` `vlog2` `viadd` `visub` `vimul` `vand` `vor` `vxor` `vshl` `vshr` `vsar` `vimin`
`vimax` `viadds` `vcmp` `vcmps` `vsel` `vmov` `vbcs` `viota` `kop` `kpop` `vget` `vrotr` `vrotc` `vbcr` `vbcc` `vredr` `vredc` `vshuf` `vcvt` `vpack`
`vunpk` `vfix` `vflt`. A wait leaves the core at the word, in the model's own form (log 3). -/
def Obligations.VectorHandOver : Prop :=
  ∀ (s : State) (op : VOp) (o : OpV), VOp.isMem op = false → s.queues Guard.always [bg o.s, bg o.t] →
    let u := s.now.ctx.vu
    (u.queue.length < 32 → exec (op.instr o) s = .next (s.done fun c => { c with ctx := { c.ctx with vu := { u with
      queue := u.queue ++ [⟨u.num, some op, o, s.now.rg o.s, s.now.rg o.t, none, none, false, s.now.loopTag Guard.always⟩]
      num := u.num + 1 } } })) ∧
    (32 ≤ u.queue.length → s.waits (op.instr o))

/-- The bytes of an element of a memory word: the width of ET, or 4 for `vstadd` and `vzero` (R133). -/
def elementBytes (op : VOp) (et : Nat) : Nat :=
  if op = .vstadd ∨ op = .vzero then 4 else if et = 0 ∨ et = 3 ∨ et = 4 then 4 else if et ≤ 2 ∨ et = 5 ∨ et = 6 then 2 else 1

/-- R26, R133, R134: a vector memory word whose checks pass, over all 64 elements of each row, enters the load queue or the store queue with one
piece for each element of its rows (for `vldb` the first of each row), at base + row × stride + column × width, and is handed to the VU; it
waits for room in its queues. Else it traps with no effect: ALIGN for the base, then for the stride, XMISS for the first address of 2^48 or
more, then the first failed check of R182, or FILTER 3 for a load of a window word that no registered region covers (R211). -/
def vectorMemoryQueues : Prop :=
  ∀ (s : State) (op : VOp) (o : OpV) (place : Nat → Nat → Place), VOp.isMem op = true → s.queues Guard.always [bg o.s, bg o.t] →
    let x := s.now.ctx
    let i := op.instr o
    let base := s.now.rg o.s
    let m := modOf op (s.now.rg o.t)
    let b := elementBytes op m.et
    let load := decide (op = .vld ∨ op = .vldb)
    let cols := if op = .vldb then 1 else 64
    let addr := fun (r j : Nat) => (BitVec.ofNat 64 (base.toNat + r * m.stride + j * b) : Word)
    let a : AKind := { rd := load || decide (op = .vstadd), wr := !load, win := b == 4 && !decide (op = .vstadd) }
    let check := fun (r j : Nat) => s.check s.cur a (addr r j).toNat b
    let bare := fun (r j : Nat) => load = true ∧ ∃ va k, place r j = .window va k ∧ s.regionAt s.now.seat.part k = none
    let reached := fun (n : Nat) => (run 0 (64 * m.rows)).flatMap fun q => if q < n then run (addr (q / 64) (q % 64)).toNat b else []
    let bytes := (run 0 (64 * m.rows)).flatMap fun q => run (addr (q / 64) (q % 64)).toNat b
    let entry := (run 0 (cols * m.rows)).map fun q => (⟨addr (q / cols) (q % cols), place (q / cols) (q % cols), b, true, 0, false⟩ : Piece)
    let tag := s.now.loopTag Guard.always
    let passes := fun (n : Nat) => ∀ q < n, check (q / 64) (q % 64) = .ok (place (q / 64) (q % 64)) ∧ ¬ bare (q / 64) (q % 64)
    (base.toNat % b ≠ 0 → s.traps i { cause := .align, taddr := base }) ∧
    (base.toNat % b = 0 → m.stride % b ≠ 0 → s.traps i { cause := .align, taddr := base + BitVec.ofNat 64 m.stride }) ∧
    (base.toNat % b = 0 → m.stride % b = 0 →
      (∀ n < 64 * m.rows, 2 ^ 48 ≤ (addr (n / 64) (n % 64)).toNat → (∀ q < n, (addr (q / 64) (q % 64)).toNat < 2 ^ 48) →
        s.traps i { cause := .xmiss, taddr := addr (n / 64) (n % 64) }) ∧
      ((∀ q < 64 * m.rows, (addr (q / 64) (q % 64)).toNat < 2 ^ 48) →
        (∀ n < 64 * m.rows, passes n → s.walksFine (reached (n + 1)) →
          let failed := fun (t : TrapInfo) => ∃ u : State, s.timed u ∧ exec i s = .next (u.raise s.cur (s.trapOf Guard.always t))
          (∀ c ti, check (n / 64) (n % 64) = .trap c ti → failed { cause := c, tinfo := ti, taddr := addr (n / 64) (n % 64) }) ∧
          (check (n / 64) (n % 64) = .ok (place (n / 64) (n % 64)) → bare (n / 64) (n % 64) →
            failed { cause := .filter, tinfo := 3, taddr := addr (n / 64) (n % 64) })) ∧
        (passes (64 * m.rows) → s.now.watch load (!load) bytes = .go → s.walksFine bytes →
          (32 ≤ x.vu.queue.length ∨ (load = true ∧ 16 ≤ x.lq.length) → s.waits i) ∧
          (x.vu.queue.length < 32 → load = true → x.lq.length < 16 → ∃ u, s.timed u ∧ exec i s = .next (u.done fun c => { c with ctx := { x with
            lq := x.lq ++ [⟨x.loads, x.seq, m.cls, entry, 0, none, false, tag⟩], loads := x.loads + 1, seq := x.seq + 1
            vu := { x.vu with
              queue := x.vu.queue ++ [⟨x.vu.num, some op, o, base, s.now.rg o.t, some x.loads, none, false, tag⟩]
              num := x.vu.num + 1 } } })) ∧
          (x.vu.queue.length < 32 → load = false → ∃ u, s.timed u ∧ exec i s = .next (u.done fun c => { c with ctx := { x with
            sq := x.sq ++ [⟨x.seq, m.cls, if op = .vstadd then .add (m.et == 0) else .plain, entry, false, 0, none, tag⟩], seq := x.seq + 1
            vu := { x.vu with
              queue := x.vu.queue ++ [⟨x.vu.num, some op, o, base, s.now.rg o.t, none, some x.seq, false, tag⟩]
              num := x.vu.num + 1 } } })))))

/-- The VU of core `p` may take the entry `e` at the head of its queue in slot `n`, with no window over any register. -/
def vuReady (s : State) (p : Nat) (e : VEntry) (rest : List VEntry) (n : Nat) : Prop :=
  let c := s.core p
  c.vuFlows = true ∧ c.ctx.vu.queue = e :: rest ∧ e.dropped = false ∧ c.bad = [] ∧
  (∀ i : Fin 16, (c.ctx.vu.vwin[i]).quiet n) ∧ (∀ i : Fin 8, (c.ctx.vu.kwin[i]).quiet n)

/-- M[r][c] of R115: bit c of row r of the governing mask; k0 reads all ones. -/
def governs (x : Ctx) (k : BitVec 3) (kn : Bool) (j : Fin 1024) : Bool :=
  xor (if k = 0 then true else ((x.vu.k[k.toNat]'k.isLt)[j.val / 64]'(by omega)).getLsbD (j.val % 64)) kn

/-- An element in the representation of an integer type of `w` bits (R114). -/
def isElement (w : Nat) (signed : Bool) (v : Int) (e : Elem) : Prop :=
  if signed then e.toInt = v.bmod (2 ^ w) else (e.toNat : Int) = v % 2 ^ w

/-- R135 to R139: the issue of a vector memory word at the VU's earliest slot. A `vld` or `vldb` whose data is there leaves the load queue and
writes the elements of its rows where the mask is set, of its other elements with KZ zeros; the rows beyond stand. The destination is
undefined for 12 slots. A `vst`, `vstadd` or `vzero` supplies its queue entry with the enables of the mask and the low bytes of VA, zeros for
`vzero`; an entry with no enabled element leaves the queue. Every other vector register, the masks and the flags stand. -/
def vectorMemoryIssues : Prop :=
  ∀ (s : State) (p : Nat) (e : VEntry) (rest : List VEntry) (op : VOp), e.op = some op →
    let x := (s.core p).ctx
    let n := x.vu.slot + 1 + e.f.p.toNat
    let m := modOf op e.gt
    let y := ((s.vuIssue p 0).core p).ctx
    let b := elementBytes op m.et
    vuReady s p e rest n →
    (∀ l more, op = .vld ∨ op = .vldb → x.lq = l :: more → e.load = some l.num → l.fault = none → l.dropped = false →
      (∀ q ∈ l.pieces, q.done = true) →
      y.lq = more ∧ y.sq = x.sq ∧ y.vu.slot = n ∧ y.vu.queue = rest ∧ y.vu.k = x.vu.k ∧ y.vufl = x.vufl ∧
      (y.vu.vwin[e.f.d.toNat]'e.f.d.isLt).due = n + 12 ∧
      (∀ i : BitVec 4, i ≠ e.f.d → y.vu.v[i.toNat]'i.isLt = x.vu.v[i.toNat]'i.isLt) ∧
      ∀ j : Fin 1024,
        let old := (x.vu.v[e.f.d.toNat]'e.f.d.isLt)[j]
        let r := (y.vu.v[e.f.d.toNat]'e.f.d.isLt)[j]
        (m.rows ≤ j.val / 64 → r = old) ∧
        (j.val / 64 < m.rows → governs x m.k m.kn j = false → r = if m.kz then 0 else old) ∧
        (j.val / 64 < m.rows → governs x m.k m.kn j = true → ∀ q, l.pieces[if op = .vldb then j.val / 64 else j.val]? = some q →
          let low := q.data.toNat % 2 ^ (8 * b)
          if 3 ≤ m.et ∧ m.et ≤ 8 then isElement (8 * b) (etSigned m.et) low r else r.toNat = low)) ∧
    (∀ (q : SEntry) before after, op ∈ [VOp.vst, .vstadd, .vzero] → x.sq = before ++ q :: after → e.store = some q.seq →
      (∀ r ∈ before ++ after, r.seq ≠ q.seq) → q.pieces.length ≤ 1024 →
      y.lq = x.lq ∧ y.vu.slot = n ∧ y.vu.queue = rest ∧ y.vu.v = x.vu.v ∧ y.vu.k = x.vu.k ∧ y.vufl = x.vufl ∧
      let full := fun (z : SEntry) => z = { q with ready := true, pieces := z.pieces } ∧ z.pieces.length = q.pieces.length ∧
        ∀ (j : Fin 1024) (h : j.val < q.pieces.length), z.pieces[j.val]? = some { (q.pieces[j.val]'h) with
          en := governs x m.k m.kn j
          data := if op = .vzero then 0
            else BitVec.ofNat 64 ((((x.vu.v[e.f.a.toNat]'e.f.a.isLt)[j]).toNat) % 2 ^ (8 * b)) }
      ∃ z, full z ∧ (if ∃ r ∈ z.pieces, r.done = false ∧ r.en = true then y.sq = before ++ z :: after else y.sq = before ++ after))

/-- R26, R133 to R139: the vector memory words: their checks and hand-over, and their issue at the VU. -/
def Obligations.VectorMemoryWords : Prop := vectorMemoryQueues ∧ vectorMemoryIssues

/-- R140 to R143: `vfence` waits for the vector words of the VU's queue and then ends every undefined window; `vbusy` is true while vector
words wait, false once all have issued and landed, and either while a bound runs; `vmode` queues a mode entry; `vtake` takes the oldest
entry of the result FIFO, waits for a `vget` on the way, and traps with ENGINE 1 where none can come. A wait leaves the core at the word,
in the model's own form (log 3). That a `vbusy` advances the counter of the free values is the model's own (log 5). -/
def Obligations.VectorControlWords : Prop :=
  ∀ (s : State),
    let x := s.now.ctx
    let landed : Vu := { x.vu with vwin := Vector.replicate 16 Win.none, kwin := Vector.replicate 8 Win.none }
    let waiting := ∃ v ∈ x.vu.queue, v.op ≠ none
    (∀ o : Guard, s.queues o [] →
      (¬ waiting → exec (.vfence o) s = .next (s.done fun c => { c with ctx := { x with vu := landed } })) ∧
      (waiting → s.waits (.vfence o))) ∧
    (∀ o : OpP, s.queues o.toGuard [] →
      (waiting → exec (.vbusy o) s = .next (s.done (·.setP o.p true))) ∧
      (¬ waiting → ∃ b, (x.vu.landing = false → b = false) ∧ exec (.vbusy o) s = .next ({ s with free := s.free + 1 }.done fun c =>
        if b then c.setP o.p true else { c.setP o.p false with ctx := { (c.setP o.p false).ctx with vu := landed } }))) ∧
    (∀ o : OpA, s.queues o.toGuard [bg o.a] → x.vu.queue.length < 32 →
      exec (.vmode o) s = .next (s.done fun c => { c with ctx := { x with vu := { x.vu with
        queue := x.vu.queue ++ [⟨x.vu.num, none, ⟨0, 0, 0, 0, 0, 0⟩, s.now.rg o.a, 0, none, none, false, s.now.loopTag o.toGuard⟩]
        num := x.vu.num + 1 } } })) ∧
    (∀ o : OpD, s.queues o.toGuard [] →
      (∀ e t, x.vu.fifo = e :: t → ∃ v : Word, v.toNat = e.toNat ∧
        exec (.vtake o) s = .next (s.done fun c => { c with ctx := { x with vu := { x.vu with fifo := t } } }.setG o.d v)) ∧
      (x.vu.fifo = [] → (∃ v ∈ x.vu.queue, v.op = some .vget ∧ v.dropped = false) → s.waits (.vtake o)) ∧
      (x.vu.fifo = [] → (∀ v ∈ x.vu.queue, v.op ≠ some .vget) → s.traps (.vtake o) { cause := .engine, tinfo := 1 }))

/-- R19, R20, R115, R120: the VU issues one of the twelve integer words at its earliest slot: the elements that the governing mask selects hold
the result in ET's representation, the others keep their value or become 0 with KZ; the destination is undefined for 2 slots; every
other vector register, every mask and the flags are as before. -/
def Obligations.VuElements : Prop :=
  ∀ (s : State) (p : Nat) (e : VEntry) (rest : List VEntry) (op : VOp), e.op = some op →
    let x := (s.core p).ctx
    let n := x.vu.slot + 1 + e.f.p.toNat
    let m := modOf op e.gt
    let t := s.vuIssue p 0
    let y := (t.core p).ctx
    let w := etWidth m.et
    vuReady s p e rest n →
    op ∈ [VOp.viadd, .visub, .vimul, .vand, .vor, .vxor, .vshl, .vshr, .vsar, .vimin, .vimax, .viadds] →
    m.et ∈ [3, 4, 5, 6, 7, 8] ∧
    y.vu.slot = n ∧ y.vu.queue = rest ∧ (y.vu.vwin[e.f.d.toNat]'e.f.d.isLt).due = n + 2 ∧ y.vu.k = x.vu.k ∧ y.vufl = x.vufl ∧
    (∀ i : BitVec 4, i ≠ e.f.d → y.vu.v[i.toNat]'i.isLt = x.vu.v[i.toNat]'i.isLt) ∧
    ∀ j : Fin 1024,
      let a := (x.vu.v[e.f.a.toNat]'e.f.a.isLt)[j]
      let b := (x.vu.v[e.f.b.toNat]'e.f.b.isLt)[j]
      let r := (y.vu.v[e.f.d.toNat]'e.f.d.isLt)[j]
      let num := fun z : Elem => if etSigned m.et then ((z.toNat % 2 ^ w : Nat) : Int).bmod (2 ^ w) else ((z.toNat % 2 ^ w : Nat) : Int)
      let low := a.toNat % 2 ^ w
      let is := isElement w (etSigned m.et)
      (governs x m.k m.kn j = false → r = if m.kz then 0 else (x.vu.v[e.f.d.toNat]'e.f.d.isLt)[j]) ∧
      (governs x m.k m.kn j = true →
        (op = .viadd → is (num a + num b) r) ∧ (op = .visub → is (num a - num b) r) ∧ (op = .vimul → is (num a * num b) r) ∧
        (op = .vand → (∃ v, is v r) ∧ ∀ k < w, r.getLsbD k = (a.getLsbD k && b.getLsbD k)) ∧
        (op = .vor → (∃ v, is v r) ∧ ∀ k < w, r.getLsbD k = (a.getLsbD k || b.getLsbD k)) ∧
        (op = .vxor → (∃ v, is v r) ∧ ∀ k < w, r.getLsbD k = (a.getLsbD k != b.getLsbD k)) ∧
        (op = .vshl → is (low * 2 ^ (b.toNat % 32) : Nat) r) ∧ (op = .vshr → is (low / 2 ^ (b.toNat % 32) : Nat) r) ∧
        (op = .vsar → is ((low : Int).bmod (2 ^ w) / 2 ^ (b.toNat % 32)) r) ∧
        (op = .vimin → is (min (num a) (num b)) r) ∧ (op = .vimax → is (max (num a) (num b)) r) ∧
        (op = .viadds → is (num a + e.gs.toNat) r))

/-- R83: the value of a finite code with `p` bits of precision and an exponent field of `ew` bits; none for an infinity or a NaN. -/
def codeValue (p ew x : Nat) : Option Rat :=
  let ex := x / 2 ^ (p - 1) % 2 ^ ew
  let fr := x % 2 ^ (p - 1)
  let bias : Int := 2 ^ (ew - 1) - 1
  let mag : Rat := if ex = 0 then fr * 2 ^ (2 - bias - p : Int) else ((fr + 2 ^ (p - 1) : Nat) : Rat) * 2 ^ ((ex : Int) - bias - p + 1)
  if ex = 2 ^ ew - 1 then none else some (if x.testBit (p + ew - 1) then -mag else mag)

/-- Precision and exponent width of the types fp32, bf16 and fp16 (R83). -/
def ieeeOf (t : Nat) : Nat × Nat := if t = 0 then (24, 8) else if t = 1 then (8, 8) else (11, 5)

/-- A NaN code, signalling or quiet (R83). -/
def isNanCode (p ew x : Nat) (signalling : Bool) : Prop :=
  x / 2 ^ (p - 1) % 2 ^ ew = 2 ^ ew - 1 ∧ x % 2 ^ (p - 1) ≠ 0 ∧ x.testBit (p - 2) = !signalling

/-- The code of an infinity (R83). -/
def infCode (p ew : Nat) (neg : Bool) : Nat := (2 ^ ew - 1) * 2 ^ (p - 1) + if neg then 2 ^ (p + ew - 1) else 0

/-- The default NaN of a format (R86). -/
def nanCode (p ew : Nat) : Nat := (2 ^ ew - 1) * 2 ^ (p - 1) + 2 ^ (p - 2)

/-- The order of codes that are no NaN: by value, −0 below +0 (R87). -/
def codeRank (w x : Nat) : Int := if x.testBit (w - 1) then -(x % 2 ^ (w - 1) : Nat) - 1 else (x % 2 ^ (w - 1) : Nat)

/-- The same with −0 = +0 (R121). -/
def codeKey (w x : Nat) : Int := if x.testBit (w - 1) then -(x % 2 ^ (w - 1) : Nat) else (x % 2 ^ (w - 1) : Nat)

/-- R84: among the codes below `size`, with the values `value`, `r` has the value that mode `md` gives to `v`: no code lies strictly between,
a value that some code has is kept, a directed mode stays on its side, and RNE takes the nearest, of two the even one. -/
def nearestOn (value : Nat → Option Rat) (size : Nat) (md : Round) (v : Rat) (r : Nat) : Prop :=
  ∃ q, r < size ∧ value r = some q ∧ (md = .rz → |q| ≤ |v|) ∧ (md = .ru → v ≤ q) ∧ (md = .rd → q ≤ v) ∧
    ∀ z < size, ∀ y, value z = some y → ¬ (min q v < y ∧ y < max q v) ∧ (y = v → q = v) ∧
      (md = .rne → |q - v| ≤ |y - v| ∧ (|q - v| = |y - v| → y ≠ q → r % 2 = 0))

/-- R84: a value becomes an infinity: in RNE from half a unit above the largest finite magnitude on, in RU and RD on their own side. -/
def overflows (p ew : Nat) (md : Round) (v : Rat) : Prop :=
  let unit : Rat := 2 ^ ((2 : Int) ^ (ew - 1) - p)
  match md with
  | .rne => (2 ^ p - 1 / 2) * unit ≤ |v|
  | .rz => False
  | .ru => (2 ^ p - 1) * unit < v
  | .rd => v < -((2 ^ p - 1) * unit)

/-- R84: the code `r` is the exact nonzero value `v` rounded in the mode `md`. -/
def rounds (p ew : Nat) (md : Round) (v : Rat) (r : Nat) : Prop :=
  r.testBit (p + ew - 1) = decide (v < 0) ∧ (overflows p ew md v → r = infCode p ew (decide (v < 0))) ∧
  (¬ overflows p ew md v → nearestOn (codeValue p ew) (2 ^ (p + ew)) md v r)

/-- R84, R85: the exact value `v` rounded, a zero with the sign that the operation gives it; an infinity raises OF, and it and every other
inexact result NX. -/
def gives (p ew : Nat) (md : Round) (v : Rat) (zero : Bool) (r : Nat) (fl : Nat → Prop) : Prop :=
  (v = 0 → r = if zero then 2 ^ (p + ew - 1) else 0) ∧
  (v ≠ 0 → rounds p ew md v r ∧ (overflows p ew md v → fl 2) ∧ (codeValue p ew r ≠ some v → fl 4))

/-- R86, rules 1 and 2, for two operands: the first signalling NaN is quietened and raises NV, else the first quiet NaN passes. -/
def nanPair (p ew a b r : Nat) (fl : Nat → Prop) : Prop :=
  let sig := (isNanCode p ew · true)
  let quiet := (isNanCode p ew · false)
  (sig a → r = a ||| 2 ^ (p - 2) ∧ fl 0) ∧ (¬ sig a → sig b → r = b ||| 2 ^ (p - 2) ∧ fl 0) ∧
  (¬ sig a → ¬ sig b → quiet a → r = a) ∧ (¬ sig a → ¬ sig b → ¬ quiet a → quiet b → r = b)

/-- R84 to R86: `r` is the sum a + b, or with `sub` the difference a − b. -/
def sumIs (p ew : Nat) (md : Round) (sub : Bool) (a b r : Nat) (fl : Nat → Prop) : Prop :=
  let sa := a.testBit (p + ew - 1)
  let sb := xor (b.testBit (p + ew - 1)) sub
  let inf := fun x : Nat => x = infCode p ew true ∨ x = infCode p ew false
  nanPair p ew a b r fl ∧ (inf a → inf b → sa ≠ sb → r = nanCode p ew ∧ fl 0) ∧ (inf a → inf b → sa = sb → r = infCode p ew sa) ∧
  (∀ q, inf a → codeValue p ew b = some q → r = infCode p ew sa) ∧ (∀ q, codeValue p ew a = some q → inf b → r = infCode p ew sb) ∧
  ∀ qa qb, codeValue p ew a = some qa → codeValue p ew b = some qb →
    gives p ew md (if sub then qa - qb else qa + qb) (if sa = sb then sa else decide (md = .rd)) r fl

/-- R84 to R86: `r` is the product a × b. -/
def prodIs (p ew : Nat) (md : Round) (a b r : Nat) (fl : Nat → Prop) : Prop :=
  let sg := xor (a.testBit (p + ew - 1)) (b.testBit (p + ew - 1))
  let inf := fun x : Nat => x = infCode p ew true ∨ x = infCode p ew false
  nanPair p ew a b r fl ∧ (inf a → inf b → r = infCode p ew sg) ∧
  (∀ q, (inf a ∧ codeValue p ew b = some q) ∨ (inf b ∧ codeValue p ew a = some q) →
    (q = 0 → r = nanCode p ew ∧ fl 0) ∧ (q ≠ 0 → r = infCode p ew sg)) ∧
  ∀ qa qb, codeValue p ew a = some qa → codeValue p ew b = some qb → gives p ew md (qa * qb) sg r fl

/-- R84 to R86: `r` is a × b + c with one rounding, or with `np` −(a × b) + c. -/
def fmaIs (p ew : Nat) (md : Round) (np : Bool) (a b c r : Nat) (fl : Nat → Prop) : Prop :=
  let value := codeValue p ew
  let sig := (isNanCode p ew · true)
  let quiet := (isNanCode p ew · false)
  let inf := fun x : Nat => x = infCode p ew true ∨ x = infCode p ew false
  let sp := xor (xor (a.testBit (p + ew - 1)) (b.testBit (p + ew - 1))) np
  let sc := c.testBit (p + ew - 1)
  let bad := (inf a ∧ value b = some 0) ∨ (inf b ∧ value a = some 0)
  let none := ¬ sig a ∧ ¬ sig b ∧ ¬ sig c ∧ ¬ quiet a ∧ ¬ quiet b
  (sig a → r = a ||| 2 ^ (p - 2) ∧ fl 0) ∧ (¬ sig a → sig b → r = b ||| 2 ^ (p - 2) ∧ fl 0) ∧
  (¬ sig a → ¬ sig b → sig c → r = c ||| 2 ^ (p - 2) ∧ fl 0) ∧ (¬ sig a → ¬ sig b → ¬ sig c → quiet a → r = a) ∧
  (¬ sig a → ¬ sig b → ¬ sig c → ¬ quiet a → quiet b → r = b) ∧
  (none → quiet c → r = c ∧ (bad → fl 0)) ∧ (none → ¬ quiet c → bad → r = nanCode p ew ∧ fl 0) ∧
  (none → ¬ quiet c → ¬ bad → inf a ∨ inf b → (inf c → sc ≠ sp → r = nanCode p ew ∧ fl 0) ∧
    (¬ (inf c ∧ sc ≠ sp) → r = infCode p ew sp)) ∧
  ∀ qa qb, value a = some qa → value b = some qb → (inf c → r = c) ∧
    ∀ qc, value c = some qc → gives p ew md (if np then -(qa * qb) + qc else qa * qb + qc) (if sp = sc then sp else decide (md = .rd)) r fl

/-- R86, R87: `r` is the smaller of a and b, or with `mx` the larger, −0 below +0; of one quiet NaN the other operand. -/
def minMaxIs (p ew : Nat) (mx : Bool) (a b r : Nat) (fl : Nat → Prop) : Prop :=
  let sig := (isNanCode p ew · true)
  let quiet := (isNanCode p ew · false)
  (sig a → r = a ||| 2 ^ (p - 2) ∧ fl 0) ∧ (¬ sig a → sig b → r = b ||| 2 ^ (p - 2) ∧ fl 0) ∧
  (¬ sig a → ¬ sig b → quiet b → r = a) ∧ (¬ sig a → ¬ sig b → quiet a → ¬ quiet b → r = b) ∧
  (¬ sig a → ¬ sig b → ¬ quiet a → ¬ quiet b → (r = a ∨ r = b) ∧ codeRank (p + ew) r =
    if mx then max (codeRank (p + ew) a) (codeRank (p + ew) b) else min (codeRank (p + ew) a) (codeRank (p + ew) b))

/-- R120, R121: the condition `c` on two elements of an integer type, read as R120 reads them; `x` and `y` are their low bits. -/
def intHolds (c : Nat) (a b : Int) (x y : Nat) : Bool :=
  if c = 0 then decide (a = b) else if c = 1 then decide (a ≠ b) else if c = 2 then decide (a < b) else if c = 3 then decide (b ≤ a)
  else if c = 4 then decide (a ≤ b) else if c = 5 then decide (b < a) else if c = 6 then decide (x &&& y ≠ 0) else decide (x &&& y = 0)

/-- R121: the condition `c` on two codes of a floating-point type: by value, with −0 = +0; a NaN is unequal and unordered. -/
def floatHolds (p ew c a b : Nat) : Bool :=
  let nan := fun x : Nat => decide (x / 2 ^ (p - 1) % 2 ^ ew = 2 ^ ew - 1 ∧ x % 2 ^ (p - 1) ≠ 0)
  let x := codeKey (p + ew) a
  let y := codeKey (p + ew) b
  if nan a || nan b then decide (c = 1 ∨ c = 6)
  else if c = 0 then decide (x = y) else if c = 1 then decide (x ≠ y) else if c = 2 then decide (x < y) else if c = 3 then decide (y ≤ x)
  else if c = 4 then decide (x ≤ y) else if c = 5 then decide (y < x) else decide (c = 7)

/-- R121, R124, R126: `vcmp` and `vcmps` write the mask bits that they govern, for integer and floating-point types and every condition, and
a NaN raises NV as the rule says; `kop` combines whole masks whatever the governing mask, and `vget` sends one element to the result FIFO
while it holds fewer than 16. -/
def Obligations.VuMasks : Prop :=
  ∀ (s : State) (p : Nat) (e : VEntry) (rest : List VEntry) (op : VOp), e.op = some op →
    let x := (s.core p).ctx
    let n := x.vu.slot + 1 + e.f.p.toNat
    let m := modOf op e.gt
    let y := ((s.vuIssue p 0).core p).ctx
    let w := etWidth m.et
    let kd : BitVec 3 := e.f.d.setWidth 3
    let mask := fun (z : Ctx) (k : BitVec 3) (r : Fin 16) => if k = 0 then BitVec.allOnes 64 else (z.vu.k[k.toNat]'k.isLt)[r]
    vuReady s p e rest n →
    (op = .vcmp ∨ op = .vcmps → kd ≠ 0 → m.et ≤ 8 ∧ m.cond ≤ 7 ∧ y.vu.v = x.vu.v ∧ (y.vu.kwin[kd.toNat]'kd.isLt).due = n + 2 ∧
      (3 ≤ m.et → y.vufl = x.vufl) ∧ (∀ i : Fin 7, x.vufl[i] = true → y.vufl[i] = true) ∧ ∀ j : Fin 1024,
      let a := (x.vu.v[e.f.a.toNat]'e.f.a.isLt)[j].toNat % 2 ^ w
      let b := if op = .vcmps then e.gs.toNat % 2 ^ w else (x.vu.v[e.f.b.toNat]'e.f.b.isLt)[j].toNat % 2 ^ w
      let num := fun z : Nat => if etSigned m.et then (z : Int).bmod (2 ^ w) else z
      let (pr, ew) := ieeeOf m.et
      let bit := ((y.vu.k[kd.toNat]'kd.isLt)[j.val / 64]'(by omega)).getLsbD (j.val % 64)
      let old := ((x.vu.k[kd.toNat]'kd.isLt)[j.val / 64]'(by omega)).getLsbD (j.val % 64)
      (governs x m.k m.kn j = false → bit = (!m.kz && old)) ∧
      (governs x m.k m.kn j = true →
        (3 ≤ m.et → bit = intHolds m.cond (num a) (num b) a b) ∧
        (m.et ≤ 2 → bit = floatHolds pr ew m.cond a b ∧
          (isNanCode pr ew a true ∨ isNanCode pr ew b true ∨
            (2 ≤ m.cond ∧ m.cond ≤ 5 ∧ (isNanCode pr ew a false ∨ isNanCode pr ew b false)) → y.vufl[0] = true)))) ∧
    (op = .kop → ∀ r : Fin 16,
      let a := mask x (e.f.a.setWidth 3) r
      let b := mask x (e.f.b.setWidth 3) r
      y.vu.v = x.vu.v ∧ (kd ≠ 0 → (y.vu.kwin[kd.toNat]'kd.isLt).due = n + 2) ∧ mask y kd r = if kd = 0 then BitVec.allOnes 64 else
        if m.cond = 0 then a &&& b else if m.cond = 1 then a ||| b else if m.cond = 2 then a ^^^ b
        else if m.cond = 3 then a &&& ~~~b else if m.cond = 4 then ~~~a else a) ∧
    (op = .vget → x.vu.fifo.length < 16 → ∀ h : e.gs.toNat / 2 ^ 8 % 16 * 64 + e.gs.toNat % 64 < 1024,
      y.vu.v = x.vu.v ∧ y.vu.k = x.vu.k ∧
      y.vu.fifo = x.vu.fifo ++ [(x.vu.v[e.f.a.toNat]'e.f.a.isLt)[e.gs.toNat / 2 ^ 8 % 16 * 64 + e.gs.toNat % 64]'h])

/-- R115, R118, R122, R123, R125, R127: the VU issues one of the vector words that move or select. `r` is the element written where the governing mask
is set: the sign operations, `vmov`, `vbcs`, the index of `viota` as an integer, the count of `kpop`, and the moves across lanes; `vsel` writes
every element. No flag is raised, and the masks stand. -/
def Obligations.VuMoves : Prop :=
  ∀ (s : State) (p : Nat) (e : VEntry) (rest : List VEntry) (op : VOp), e.op = some op →
    let x := (s.core p).ctx
    let n := x.vu.slot + 1 + e.f.p.toNat
    let m := modOf op e.gt
    let y := ((s.vuIssue p 0).core p).ctx
    let w := etWidth m.et
    let v := e.gs.toNat
    vuReady s p e rest n →
    op ∈ [VOp.vabs, .vneg, .vsel, .vmov, .vbcs, .viota, .kpop, .vrotr, .vrotc, .vbcr, .vbcc, .vshuf] →
    y.vu.slot = n ∧ y.vu.queue = rest ∧ y.vu.k = x.vu.k ∧ y.vufl = x.vufl ∧
    (y.vu.vwin[e.f.d.toNat]'e.f.d.isLt).due = n + (if op ∈ [VOp.vabs, .vneg] then 4 else if op ∈ [VOp.vrotc, .vbcc] then 3
      else if op ∈ [VOp.vrotr, .vbcr, .vshuf] then 6 else 2) ∧
    (∀ i : BitVec 4, i ≠ e.f.d → y.vu.v[i.toNat]'i.isLt = x.vu.v[i.toNat]'i.isLt) ∧
    ∀ j : Fin 1024,
      let at_ := fun (row col : Nat) => (x.vu.v[e.f.a.toNat]'e.f.a.isLt)[64 * (row % 16) + col % 64]'(by omega)
      let a := (x.vu.v[e.f.a.toNat]'e.f.a.isLt)[j]
      let b := (x.vu.v[e.f.b.toNat]'e.f.b.isLt)[j]
      let r := (y.vu.v[e.f.d.toNat]'e.f.d.isLt)[j]
      let low := a.toNat % 2 ^ w
      let row := j.val / 64
      let col := j.val % 64
      let rowOfA := if e.f.a.setWidth 3 = (0 : BitVec 3) then BitVec.allOnes 64
        else (x.vu.k[(e.f.a.setWidth 3 : BitVec 3).toNat]'(e.f.a.setWidth 3 : BitVec 3).isLt)[row]'(by omega)
      (op = .vsel → r = if governs x m.k m.kn j then a else b) ∧
      (op ≠ .vsel → governs x m.k m.kn j = false → r = if m.kz then 0 else (x.vu.v[e.f.d.toNat]'e.f.d.isLt)[j]) ∧
      (governs x m.k m.kn j = true →
        (op = .vabs → r.toNat = a.toNat % 2 ^ (w - 1)) ∧ (op = .vneg → r.toNat = (low + 2 ^ (w - 1)) % 2 ^ w) ∧
        (op = .vmov → r = a) ∧ (op = .vbcs → r.toNat = v % 2 ^ 32) ∧
        (op = .viota → let i := if m.axis = 0 then col else if m.axis = 1 then row else 64 * row + col
          (m.et ≠ 0 → r.toNat = i) ∧ (m.et = 0 → codeValue 24 8 r.toNat = some i)) ∧
        (op = .kpop → r.toNat = ((List.range 64).filter rowOfA.getLsbD).length) ∧
        (op = .vrotr → ∀ c < 64, (c + v) % 64 = col → r = at_ row c) ∧ (op = .vrotc → ∀ i < 16, (i + v) % 16 = row → r = at_ i col) ∧
        (op = .vbcr → r = at_ row v) ∧ (op = .vbcc → r = at_ v col) ∧ (op = .vshuf → r = at_ row b.toNat))

/-- R19, R20, R115: the VU issues, at its earliest slot, a word of core `p` that writes elements of VD with bound `l`: its entry leaves the
queue, the destination is undefined for `l` slots, every other vector register and the masks are as before, no flag is cleared, and an
element outside the governing mask keeps its value or becomes 0 with KZ. -/
def vuWrites (s : State) (p : Nat) (e : VEntry) (rest : List VEntry) (m : Mod) (l : Nat) : Prop :=
  let x := (s.core p).ctx
  let n := x.vu.slot + 1 + e.f.p.toNat
  let y := ((s.vuIssue p 0).core p).ctx
  y.vu.slot = n ∧ y.vu.queue = rest ∧ (y.vu.vwin[e.f.d.toNat]'e.f.d.isLt).due = n + l ∧ y.vu.k = x.vu.k ∧
  (∀ i : Fin 7, x.vufl[i] = true → y.vufl[i] = true) ∧
  (∀ i : BitVec 4, i ≠ e.f.d → y.vu.v[i.toNat]'i.isLt = x.vu.v[i.toNat]'i.isLt) ∧
  ∀ j : Fin 1024, governs x m.k m.kn j = false →
    (y.vu.v[e.f.d.toNat]'e.f.d.isLt)[j] = if m.kz then 0 else (x.vu.v[e.f.d.toNat]'e.f.d.isLt)[j]

/-- R84 to R87, R115, R118: the VU issues one of the ten floating-point words that calculate. The result is the exact value rounded in the
VU's mode: the nearest code, ties to even, in RNE, the neighbour on its side in a directed mode, and on overflow an infinity or the
largest finite magnitude. The first signalling NaN in the order a, b, c is quietened and raises NV; a quiet NaN passes, or in `vmin` and
`vmax` yields to the other operand; an invalid operation gives the default NaN and raises NV; these two give the smaller and the larger
operand, −0 below +0. The destination is undefined for 4 slots; the elements outside the governing mask, every other vector register and
the masks are as before; no flag is cleared; NX, and OF for an infinity, arise. -/
def Obligations.VuFloats : Prop :=
  ∀ (s : State) (p : Nat) (e : VEntry) (rest : List VEntry) (op : VOp), e.op = some op →
    let x := (s.core p).ctx
    let n := x.vu.slot + 1 + e.f.p.toNat
    let m := modOf op e.gt
    let y := ((s.vuIssue p 0).core p).ctx
    let w := etWidth m.et
    let (pr, ew) := ieeeOf m.et
    let withS := op ∈ [VOp.vadds, .vmuls, .vfmas]
    let fl := fun i => y.vufl.getLsbD i = true
    vuReady s p e rest n →
    op ∈ [VOp.vadd, .vsub, .vmul, .vfma, .vfms, .vmin, .vmax, .vadds, .vmuls, .vfmas] →
    m.et ∈ [0, 1, 2] ∧ w = pr + ew ∧ vuWrites s p e rest m 4 ∧
    ∀ j : Fin 1024,
      let a := (x.vu.v[e.f.a.toNat]'e.f.a.isLt)[j].toNat % 2 ^ w
      let b := if withS then e.gs.toNat % 2 ^ w else (x.vu.v[e.f.b.toNat]'e.f.b.isLt)[j].toNat % 2 ^ w
      let c := (x.vu.v[e.f.d.toNat]'e.f.d.isLt)[j].toNat % 2 ^ w
      let r := ((y.vu.v[e.f.d.toNat]'e.f.d.isLt)[j]).toNat
      governs x m.k m.kn j = true → r < 2 ^ w ∧
        (op = .vadd ∨ op = .vadds → sumIs pr ew x.vu.rm false a b r fl) ∧ (op = .vsub → sumIs pr ew x.vu.rm true a b r fl) ∧
        (op = .vmul ∨ op = .vmuls → prodIs pr ew x.vu.rm a b r fl) ∧ (op = .vmin → minMaxIs pr ew false a b r fl) ∧
        (op = .vmax → minMaxIs pr ew true a b r fl) ∧ (op = .vfma ∨ op = .vfmas → fmaIs pr ew x.vu.rm false a b c r fl) ∧
        (op = .vfms → fmaIs pr ew x.vu.rm true a b c r fl)

/-- R108: `q` is RNE32 of the exact value `v`. -/
def isRne (v q : Rat) : Prop :=
  (v = 0 → q = 0) ∧ (v ≠ 0 → ∃ z, rounds 24 8 .rne v z ∧ codeValue 24 8 z = some q)

/-- R108: `q` is RCPT[j]: RNE32(64 / (64 + j + 0.5)), with j = floor(64 × (M − 1)). -/
def isRcpSeed (M q : Rat) : Prop := isRne (64 / (64 + (⌊64 * (M - 1)⌋ : Int) + 1 / 2)) q

/-- R109: `r` is the result of `vrcp` for a value ±M × 2^E. -/
def rcpIs (neg : Bool) (M : Rat) (E : Int) (r : Nat) : Prop :=
  let sg : Rat := if neg then -1 else 1
  (M = 1 → rounds 24 8 .rne (sg * 2 ^ (-E)) r) ∧
  (M ≠ 1 → ∃ y0 e0 y1 e1 y2 e2, isRcpSeed M y0 ∧ isRne (1 - M * y0) e0 ∧ isRne (y0 + y0 * e0) y1 ∧ isRne (1 - M * y1) e1 ∧
    isRne (y1 + y1 * e1) y2 ∧ isRne (1 - M * y2) e2 ∧ rounds 24 8 .rne (sg * (y2 + y2 * e2) * 2 ^ (-E)) r)

/-- R110: `r` is the result of `vrsq` for the value M × 2^E; the seed is the code in [1/2, 1) within half a unit of 1 / √u. -/
def rsqIs (M : Rat) (E : Int) (r : Nat) : Prop :=
  let h := E % 2
  let M2 := if h = 1 then 2 * M else M
  let E2 := (E - h) / 2
  let u := (1 + ((⌊32 * (M - 1)⌋ : Int) + 1 / 2) / 32) * (if h = 1 then 2 else 1)
  (M2 = 1 → rounds 24 8 .rne (2 ^ (-E2)) r) ∧
  (M2 ≠ 1 → ∃ y0 t0 e0 h0 y1 t1 e1 h1 y2 t2 e2,
    (∃ z, codeValue 24 8 z = some y0) ∧ 1 / 2 ≤ y0 ∧ y0 < 1 ∧ (y0 - 1 / 2 ^ 25) ^ 2 * u ≤ 1 ∧ 1 ≤ (y0 + 1 / 2 ^ 25) ^ 2 * u ∧
    isRne (M2 * y0) t0 ∧ isRne (1 - t0 * y0) e0 ∧ isRne (1 / 2 * y0) h0 ∧ isRne (h0 * e0 + y0) y1 ∧
    isRne (M2 * y1) t1 ∧ isRne (1 - t1 * y1) e1 ∧ isRne (1 / 2 * y1) h1 ∧ isRne (h1 * e1 + y1) y2 ∧
    isRne (M2 * y2) t2 ∧ isRne (1 - t2 * y2) e2 ∧ rounds 24 8 .rne ((y2 + 1 / 2 * y2 * e2) * 2 ^ (-E2)) r)

/-- R111: `r` is the result of `vexp2` for the value x; the seed is the code in [1, 2) within half a unit of 2^(i/64). -/
def expIs (x : Rat) (r : Nat) : Prop :=
  let n := ⌊x⌋
  let i := ⌊64 * (x - n)⌋
  ∃ c1 c2 c3 d p1 p2 p3 t, codeValue 24 8 0x3F317218 = some c1 ∧ codeValue 24 8 0x3E75FDF0 = some c2 ∧
    codeValue 24 8 0x3D635847 = some c3 ∧ isRne (x - n - i / 64) d ∧ isRne (d * c3 + c2) p1 ∧ isRne (d * p1 + c1) p2 ∧ isRne (d * p2) p3 ∧
    (∃ z, codeValue 24 8 z = some t) ∧ 1 ≤ t ∧ t < 2 ∧ (t - 1 / 2 ^ 24) ^ 64 ≤ 2 ^ i ∧ 2 ^ i ≤ (t + 1 / 2 ^ 24) ^ 64 ∧
    rounds 24 8 .rne ((t + t * p3) * 2 ^ n) r

/-- R112: `r` is the result of `vlog2` for the value M × 2^E. LGT stands as the model lists it. -/
def logIs (M : Rat) (E : Int) (r : Nat) : Prop :=
  (M = 1 → (E = 0 → r = 0) ∧ (E ≠ 0 → rounds 24 8 .rne E r)) ∧
  (M ≠ 1 → ∃ k1 k2 k3 t lg u p1 p2, codeValue 24 8 0x3FB8AA3B = some k1 ∧ codeValue 24 8 0xBF38AA3B = some k2 ∧
    codeValue 24 8 0x3EF6384F = some k3 ∧ isRcpSeed M t ∧ codeValue 24 8 (tabLg.getD ⌊64 * (M - 1)⌋.toNat 0) = some lg ∧
    isRne (M * t - 1) u ∧ isRne (u * k3 + k2) p1 ∧ isRne (u * p1 + k1) p2 ∧
    (E + lg + u * p2 = 0 → r = 0) ∧ (E + lg + u * p2 ≠ 0 → rounds 24 8 .rne (E + lg + u * p2) r))

/-- R108 to R112, R119: the VU issues one of the special functions: for each element that the governing mask selects the result of the
reference algorithm, all of whose steps round RNE whatever the VU's mode, or the special case, with the flags of its table. The
destination is undefined for 8 slots. -/
def Obligations.VuSpecials : Prop :=
  ∀ (s : State) (p : Nat) (e : VEntry) (rest : List VEntry) (op : VOp), e.op = some op →
    let x := (s.core p).ctx
    let n := x.vu.slot + 1 + e.f.p.toNat
    let m := modOf op e.gt
    let y := ((s.vuIssue p 0).core p).ctx
    let fl := fun i => y.vufl.getLsbD i = true
    let minus := 2 ^ 31
    let inf := infCode 24 8 false
    vuReady s p e rest n → op ∈ [VOp.vrcp, .vrsq, .vexp2, .vlog2] → vuWrites s p e rest m 8 ∧
    ∀ j : Fin 1024, governs x m.k m.kn j = true →
      let a := ((x.vu.v[e.f.a.toNat]'e.f.a.isLt)[j]).toNat
      let r := ((y.vu.v[e.f.d.toNat]'e.f.d.isLt)[j]).toNat
      (isNanCode 24 8 a true → r = a ||| 2 ^ 22 ∧ fl 0) ∧ (isNanCode 24 8 a false → r = a) ∧
      (op = .vrcp → (a = 0 ∨ a = minus → r = inf + a ∧ fl 1) ∧ (a = inf → r = 0) ∧ (a = inf + minus → r = minus)) ∧
      (op = .vrsq → (a = 0 ∨ a = minus → r = inf + a ∧ fl 1) ∧ (a = inf → r = 0) ∧ (a = inf + minus → r = nanCode 24 8 ∧ fl 0)) ∧
      (op = .vexp2 → (a = inf → r = inf) ∧ (a = inf + minus → r = 0)) ∧
      (op = .vlog2 → (a = 0 ∨ a = minus → r = inf + minus ∧ fl 1) ∧ (a = inf → r = inf) ∧ (a = inf + minus → r = nanCode 24 8 ∧ fl 0)) ∧
      ∀ v : Rat, codeValue 24 8 a = some v →
        (op = .vrsq ∨ op = .vlog2 → v < 0 → r = nanCode 24 8 ∧ fl 0) ∧
        (op = .vexp2 → (128 ≤ v → r = inf ∧ fl 2 ∧ fl 4) ∧ (v < -150 → r = 0 ∧ fl 3 ∧ fl 4) ∧ (-150 ≤ v → v < 128 → expIs v r)) ∧
        ∀ (M : Rat) (E : Int), 1 ≤ M → M < 2 → |v| = M * 2 ^ E →
          (op = .vrcp → rcpIs (decide (v < 0)) M E r) ∧ (0 < v → (op = .vrsq → rsqIs M E r) ∧ (op = .vlog2 → logIs M E r))

/-! ### Conversions and reductions at the vector unit -/

/-- R90: the value of an E4M3 code; none for a NaN. -/
def e4m3Value (x : Nat) : Option Rat :=
  let ex := x / 8 % 16
  let mag : Rat := if ex = 0 then (x % 8 : Nat) / 2 ^ 9 else ((x % 8 + 8 : Nat) : Rat) * 2 ^ ((ex : Int) - 10)
  if x % 128 = 127 then none else some (if x.testBit 7 then -mag else mag)

/-- R92, R99: the linear representative of an lg8 code; none for the NaN. -/
def lg8Value (x : Nat) : Option Rat :=
  let l := x % 128
  let t := [0x800000, 0x8B95C2, 0x9837F0, 0xA5FED7, 0xB504F3, 0xC5672A, 0xD744FD, 0xEAC0C7].getD (l % 8) 0
  let mag : Rat := (t : Rat) * 2 ^ (((l / 8 : Nat) : Int) - 8 - 23)
  if l = 0 then (if x.testBit 7 then none else some 0) else some (if x.testBit 7 then -mag else mag)

/-- R93: `r` is the finite value `v` on the E4M3 grid: above 448 after rounding it is ±448 with overflow and inexact. -/
def toE4m3Is (md : Round) (v : Rat) (r : Nat) (fl : Nat → Prop) : Prop :=
  let ovf := match md with | .rne => 464 ≤ |v| | .rz => False | .ru => 448 < v | .rd => v < -448
  r.testBit 7 = decide (v < 0) ∧ (ovf → r % 128 = 0x7E ∧ fl 2 ∧ fl 4) ∧
  (¬ ovf → nearestOn e4m3Value 256 md v r ∧ (e4m3Value r ≠ some v → fl 4))

/-- R103: `r` is the finite nonzero value `v` as an lg8 code. -/
def toLg8Is (md : Round) (v : Rat) (r : Nat) (fl : Nat → Prop) : Prop :=
  let t := [0x800000, 0x8B95C2, 0x9837F0, 0xA5FED7, 0xB504F3, 0xC5672A, 0xD744FD, 0xEAC0C7]
  let b := [0x85AAC3, 0x91C3D3, 0x9EF532, 0xAD583F, 0xBD08A4, 0xCE248C, 0xE0CCDF, 0xF5257D]
  let away := (md = .ru ∧ 0 < v) ∨ (md = .rd ∧ v < 0)
  let sg := if v < 0 then 128 else 0
  ∀ (m : Nat) (E : Int), 2 ^ 23 ≤ m → m < 2 ^ 24 → |v| = m * 2 ^ (E - 23) →
    let j := if md = .rne then (b.filter (· ≤ m)).length else if away then (t.filter (· < m)).length
      else ((t.drop 1).filter (· ≤ m)).length
    let l : Int := 64 + 8 * E + j
    (127 < l → r = sg + 127 ∧ fl 5) ∧ (l < 1 → r = 0 ∧ fl 6) ∧ (1 ≤ l → l ≤ 127 → (r : Int) = sg + l)

/-- R88, R93, R103, R129: `r` is the code `a` of an IEEE type converted to another type `dst`. -/
def convertIs (p ew dst : Nat) (md : Round) (a r : Nat) (fl : Nat → Prop) : Prop :=
  let (q, dw) := ieeeOf dst
  let sg := a.testBit (p + ew - 1)
  let top := fun w : Nat => if sg then 2 ^ w else 0
  let fr := a % 2 ^ (p - 1)
  let nan := isNanCode p ew a true ∨ isNanCode p ew a false
  (isNanCode p ew a true → dst ≠ 11 → fl 0) ∧
  (dst ≤ 2 →
    (nan → r = infCode q dw sg ||| 2 ^ (q - 2) ||| (if p ≤ q then fr * 2 ^ (q - p) else fr / 2 ^ (p - q))) ∧
    (a = infCode p ew sg → r = infCode q dw sg) ∧ ∀ v, codeValue p ew a = some v → gives q dw md v sg r fl) ∧
  (dst = 9 → (nan → r = top 7 + 0x7F) ∧ (a = infCode p ew sg → r = top 7 + 0x7E ∧ fl 2) ∧
    ∀ v, codeValue p ew a = some v → (v = 0 → r = top 7) ∧ (v ≠ 0 → toE4m3Is md v r fl)) ∧
  (dst = 10 → (nan → r = top 7 + 0x7E) ∧ (a = infCode p ew sg → r = top 7 + 0x7C) ∧
    ∀ v, codeValue p ew a = some v → gives 3 5 md v sg r fl) ∧
  (dst = 11 → (nan → r = 0x80) ∧ (a = infCode p ew sg → r = top 7 + 127 ∧ fl 5) ∧
    ∀ v, codeValue p ew a = some v → (v = 0 → r = 0) ∧ (v ≠ 0 → toLg8Is md v r fl))

/-- R92, R93, R129: `z` is the FP32 value of the eight-bit code `a`. -/
def widensTo (src a z : Nat) (fl : Nat → Prop) : Prop :=
  let sg := if a.testBit 7 then 2 ^ 31 else 0
  let value := if src = 9 then e4m3Value a else if src = 10 then codeValue 3 5 a else lg8Value a
  z < 2 ^ 32 ∧ (∀ v, value = some v → codeValue 24 8 z = some v ∧ (v = 0 → z = sg)) ∧
  (src = 9 → a % 128 = 127 → z = sg + 0x7FC00000) ∧ (src = 11 → a = 128 → z = 0x7FC00000) ∧
  (src = 10 → a % 128 = 0x7C → z = sg + 0x7F800000) ∧
  (src = 10 → 0x7C < a % 128 → z = sg + 0x7FC00000 ||| a % 4 * 2 ^ 21 ∧ (a % 4 = 1 → fl 0))

/-- R89: `i` is the float `a` as an integer of `w` bits. -/
def fixIs (p ew : Nat) (md : Round) (sgn : Bool) (w a : Nat) (i : Int) (fl : Nat → Prop) : Prop :=
  let lo : Int := if sgn then -(2 ^ (w - 1)) else 0
  let hi : Int := if sgn then 2 ^ (w - 1) - 1 else 2 ^ w - 1
  (isNanCode p ew a true ∨ isNanCode p ew a false → i = 0 ∧ fl 0) ∧ (a = infCode p ew true → i = lo ∧ fl 0) ∧
  (a = infCode p ew false → i = hi ∧ fl 0) ∧
  ∀ v, codeValue p ew a = some v → ∃ k : Int, (md = .rz → k = if v < 0 then ⌈v⌉ else ⌊v⌋) ∧ (md = .ru → k = ⌈v⌉) ∧ (md = .rd → k = ⌊v⌋) ∧
    (md = .rne → |k - v| ≤ 1 / 2 ∧ (|k - v| = 1 / 2 → k % 2 = 0)) ∧
    i = max lo (min hi k) ∧ (i ≠ k → fl 0) ∧ (i = k → (k : Rat) ≠ v → fl 4)

/-- R129 to R132: the words that convert, for an element `a` of VA and `b` of VB. -/
def convertedIs (op : VOp) (m : Mod) (md : Round) (a b r : Elem) (fl : Nat → Prop) : Prop :=
  let (p, ew) := ieeeOf m.et2
  let (q, dw) := ieeeOf m.et
  let w := etWidth m.et
  let h := etWidth m.et2
  let num := fun (t x : Nat) => if etSigned t then (x : Int).bmod (2 ^ etWidth t) else (x % 2 ^ etWidth t : Nat)
  (op = .vcvt → m.et = m.et2 → (m.et ≤ 2 →
      (isNanCode p ew (a.toNat % 2 ^ h) true → r.toNat = a.toNat % 2 ^ h ||| 2 ^ (p - 2) ∧ fl 0) ∧
      (¬ isNanCode p ew (a.toNat % 2 ^ h) true → r.toNat = a.toNat % 2 ^ h)) ∧ (9 ≤ m.et → r.toNat = a.toNat % 2 ^ 8)) ∧
  (op = .vcvt → m.et ≠ m.et2 → (m.et2 ≤ 2 → convertIs p ew m.et md (a.toNat % 2 ^ h) r.toNat fl) ∧
    (9 ≤ m.et2 → ∃ z, widensTo m.et2 (a.toNat % 2 ^ 8) z fl ∧ (m.et = 0 → r.toNat = z) ∧ (m.et ≠ 0 → convertIs 24 8 m.et md z r.toNat fl))) ∧
  (op = .vfix → ∃ i, fixIs p ew md (etSigned m.et) w (a.toNat % 2 ^ h) i fl ∧ isElement w (etSigned m.et) i r) ∧
  (op = .vflt → gives q dw md (num m.et2 a.toNat) false r.toNat fl) ∧
  (op = .vpack → m.asMov = false → ∃ lo hi : Nat, lo < 2 ^ w ∧ hi < 2 ^ w ∧ r.toNat = hi * 2 ^ w + lo ∧
    (3 ≤ m.et → num m.et lo = max (if etSigned m.et then -(2 ^ (w - 1)) else 0)
        (min (if etSigned m.et then 2 ^ (w - 1) - 1 else 2 ^ w - 1) (num m.et2 a.toNat)) ∧
      num m.et hi = max (if etSigned m.et then -(2 ^ (w - 1)) else 0)
        (min (if etSigned m.et then 2 ^ (w - 1) - 1 else 2 ^ w - 1) (num m.et2 b.toNat))) ∧
    (m.et ≤ 2 → convertIs 24 8 m.et md a.toNat lo fl ∧ convertIs 24 8 m.et md b.toNat hi fl)) ∧
  (op = .vunpk → m.asMov = false →
    let half := if m.cond = 0 then a.toNat % 2 ^ h else a.toNat / 2 ^ h % 2 ^ h
    (3 ≤ m.et2 → isElement 32 (etSigned m.et) (num m.et2 half) r) ∧ (m.et2 ≤ 2 → convertIs p ew 0 .rne half r.toNat fl)) ∧
  (op = .vpack ∨ op = .vunpk → m.asMov = true → r = a)

/-- R107, R128: one combine of a reduction. -/
def combinedIs (m : Mod) (md : Round) (a b r : Elem) : Prop :=
  let w := etWidth m.et
  let (p, ew) := ieeeOf m.et
  let num := fun z : Elem => if etSigned m.et then ((z.toNat % 2 ^ w : Nat) : Int).bmod (2 ^ w) else ((z.toNat % 2 ^ w : Nat) : Int)
  let fl := fun _ : Nat => True
  (m.cond = 3 → r = a &&& b) ∧ (m.cond = 4 → r = a ||| b) ∧ (m.cond = 5 → r = a ^^^ b) ∧
  (m.cond ≤ 2 → 3 ≤ m.et → isElement w (etSigned m.et)
    (if m.cond = 0 then num a + num b else if m.cond = 1 then min (num a) (num b) else max (num a) (num b)) r) ∧
  (m.cond ≤ 2 → m.et ≤ 2 → r.toNat < 2 ^ w ∧ (m.cond = 0 → sumIs p ew md false (a.toNat % 2 ^ w) (b.toNat % 2 ^ w) r.toNat fl) ∧
    (m.cond ≠ 0 → minMaxIs p ew (decide (m.cond = 2)) (a.toNat % 2 ^ w) (b.toNat % 2 ^ w) r.toNat fl))

/-- R107: `r` is the reduction of 2^n elements from `i` on by the fixed pairwise tree, the lower half on the left. -/
def reducesTo (f : Elem → Elem → Elem → Prop) (x : Nat → Elem) : Nat → Nat → Elem → Prop
  | 0, i, r => r = x i
  | n + 1, i, r => ∃ a b, reducesTo f x n i a ∧ reducesTo f x n (i + 2 ^ n) b ∧ f a b r

/-- R107, R128 to R132: the VU issues one of the words that convert or reduce: conversions between the types and to and from integers,
`vpack` and `vunpk`, and the reductions of a row or column, over every element of the line whatever the mask. Of the flags, NV, NX,
OF of an infinity, LSAT and LUFL of the conversions are stated. Two clauses are the model's choices: the payload of a widened E5M2 NaN
(log 29), and NV for a signalling E5M2 NaN on its way to lg8 (log 45). -/
def Obligations.VuConversions : Prop :=
  ∀ (s : State) (p : Nat) (e : VEntry) (rest : List VEntry) (op : VOp), e.op = some op →
    let x := (s.core p).ctx
    let n := x.vu.slot + 1 + e.f.p.toNat
    let m := modOf op e.gt
    let y := ((s.vuIssue p 0).core p).ctx
    let fl := fun i => y.vufl.getLsbD i = true
    let at_ := fun (row col : Nat) => (x.vu.v[e.f.a.toNat]'e.f.a.isLt)[64 * (row % 16) + col % 64]'(by omega)
    vuReady s p e rest n → op ∈ [VOp.vcvt, .vpack, .vunpk, .vfix, .vflt, .vredr, .vredc] →
    vuWrites s p e rest m (if op = .vredr then 10 else if op = .vredc then 5 else 4) ∧
    ∀ j : Fin 1024, governs x m.k m.kn j = true →
      let r := (y.vu.v[e.f.d.toNat]'e.f.d.isLt)[j]
      (op ≠ .vredr → op ≠ .vredc →
        convertedIs op m x.vu.rm (x.vu.v[e.f.a.toNat]'e.f.a.isLt)[j] (x.vu.v[e.f.b.toNat]'e.f.b.isLt)[j] r fl) ∧
      (op = .vredr → reducesTo (combinedIs m x.vu.rm) (at_ (j.val / 64)) 6 0 r) ∧
      (op = .vredc → reducesTo (combinedIs m x.vu.rm) (at_ · (j.val % 64)) 4 0 r)

/-! ### Barriers, tokens and waymarks -/

/-- R178, R179: the words on a barrier that the core has bound as `b`. An arrival is counted once: in the open phase, or for the next;
the phase completes when every core of the sub-rectangle has arrived, and the next one with it where all have. -/
def boundBarrier (s : State) (o : OpBar) (b : BarBind) : Prop :=
  let m := s.bar s.cur b
  let n := rectN b.rect
  let v := (s.now.rg o.a).toNat
  let d := s.now.setG o.a (BitVec.ofNat 64 b.ph)
  let m1 : BarInst := if b.ph ≠ m.o then { m with nxt := m.nxt + 1 } else if m.cur + 1 < n then { m with cur := m.cur + 1 }
    else if m.nxt < n then { m with o := m.o + 1, cur := m.nxt, nxt := 0 } else { m with o := m.o + 2, cur := 0, nxt := 0 }
  let leaves := fun (i : Instr) (c : Core) =>
    ∃ u : State, s.timed { u with parts := s.parts } ∧ u.bar s.cur b = m1 ∧ exec i s = .next (u.setCore s.cur c)
  let on : Core := { d with ctx := d.ctx.setBound { b with ph := b.ph + 1 } }
  (b.ph = m.o + 2 → s.waits (.barArr o) ∧ (b.owes = none → s.waits (.barAw o))) ∧
  (b.ph < m.o + 2 → m.cur < n → m.nxt ≤ n →
    leaves (.barArr o) on.advance ∧ (b.owes = none → b.ph < m1.o → leaves (.barAw o) on.advance) ∧
    (b.owes = none → m1.o ≤ b.ph → leaves (.barAw o)
      { d with stalled := true, ctx := d.ctx.setBound { b with ph := b.ph + 1, owes := some b.ph } })) ∧
  (∀ q, q < b.ph → b.ph ≤ q + 2 → q % 2 = v % 2 →
    (m.o ≤ q → s.waits (.barWait o)) ∧ (q < m.o → exec (.barWait o) s = .next (s.done id))) ∧
  ((∀ q < b.ph, q % 2 ≠ v % 2) → exec (.barWait o) s = .next (s.done id)) ∧
  (∀ q, b.owes = some q → (m.o ≤ q → s.waits (.barAw o)) ∧
    (q < m.o → exec (.barAw o) s = .next (s.done fun c => { c with ctx := c.ctx.setBound { b with owes := none } })))

/-- R178, R179: the barrier words: the checks in their order with the codes of TINFO, the binding, arrivals and waits. That the outstanding
wait of a stopped `bar.aw` is consumed by any next `bar.aw` on that barrier is the model's choice (log 33). -/
def Obligations.BarrierWords : Prop :=
  ∀ (s : State) (o : OpBar), s.onCore o.toGuard [.bars, bg o.a] →
    let x := s.now.ctx
    let v := s.now.rg o.a
    let r : BitVec 15 := v.setWidth 15
    let unbound := ∀ b ∈ x.bars, b.b ≠ o.i
    (needsBar s.now.seat.needs o.i.toNat = false →
      ∀ i ∈ [Instr.barInit o, .barArr o, .barWait o, .barAw o], s.traps i { cause := .barrier, tinfo := 3 }) ∧
    (needsBar s.now.seat.needs o.i.toNat = true →
      (2 ^ 15 ≤ v.toNat ∨ rectHolds s.now.seat r = false → s.traps (.barInit o) { cause := .barrier, tinfo := 1 }) ∧
      (v.toNat < 2 ^ 15 → rectHolds s.now.seat r = true → ¬ unbound → s.traps (.barInit o) { cause := .barrier, tinfo := 2 }) ∧
      (v.toNat < 2 ^ 15 → rectHolds s.now.seat r = true → unbound →
        exec (.barInit o) s = .next (s.done fun c => { c with ctx := { x with bars := ⟨o.i, r, 0, none⟩ :: x.bars } })) ∧
      (unbound → ∀ i ∈ [Instr.barArr o, .barWait o, .barAw o], s.traps i { cause := .barrier, tinfo := 4 }) ∧
      ∀ b t, x.bound o.i = some b → (s.part s.now.seat.part).task s.now.seat.tcb = some t → boundBarrier s o b)

/-- R242, R243: the token words. A slot is satisfied for a snapshot v when (DONE − v) mod 2^16 < 2^15. -/
def Obligations.TokenWords : Prop :=
  ∀ (s : State) (i : BitVec 7) (h : i.toNat < 63),
    let t := s.now.ctx.tok[i.toNat]'h
    let satisfied := fun v : Nat => (t.dn.toNat + 2 ^ 16 - v) % 2 ^ 16 < 2 ^ 15
    (∀ o : OpTok, o.i = i → s.onCore o.toGuard [.tok i.toNat] →
      (satisfied t.iss.toNat → exec (.tokWait o) s = .next (s.done id)) ∧ (¬ satisfied t.iss.toNat → s.waits (.tokWait o))) ∧
    (∀ o : OpTokP, o.i = i → s.onCore o.toGuard [.tok i.toNat] → s.decides (.tokTest o) o.p (decide (t.dn.toNat = t.iss.toNat))) ∧
    (∀ o : OpTokA, o.i = i → s.onCore o.toGuard [.tok i.toNat] →
      s.results (.tokSnap o) o.a (fun v => v.toNat = t.iss.toNat)) ∧
    (∀ o : OpTokA, o.i = i → s.onCore o.toGuard [.tok i.toNat, bg o.a] →
      let v := (s.now.rg o.a).toNat % 2 ^ 16
      let beyond := fun k : Nat => (k + 2 ^ 16 - t.dn.toNat) % 2 ^ 16
      (beyond t.iss.toNat < beyond v → s.traps (.tokWaitv o) { cause := .token, tinfo := BitVec.ofNat 64 (i.toNat + 2 ^ 8) }) ∧
      (beyond v ≤ beyond t.iss.toNat → satisfied v → exec (.tokWaitv o) s = .next (s.done id)) ∧
      (beyond v ≤ beyond t.iss.toNat → ¬ satisfied v → s.waits (.tokWaitv o)))

/-- R253: what an arrival of `n` bytes makes of COUNT, GEN and AUX of a waymark. -/
def arrivalOf (target count gen aux n : Nat) : Nat × Nat × Nat :=
  let c := count + n
  if target = 0 ∨ c < target then (c % 2 ^ 32, gen, aux)
  else (c % target, (gen + c / target) % 2 ^ 32, if c = target then aux else 2 ^ 31 + aux % 2 ^ 31)

/-- R252 to R254: the waymark words on an error-free waymark of the quire, with no access under way: ALIGN and WINDOW, then one step at the owner port. -/
def Obligations.WaymarkWords : Prop :=
  ∀ (s : State) (g : Guard) (a b d : BitVec 5) (p : BitVec 3) (k target count gen aux : Nat), s.onCore g [bg a, bg b] →
    let w := s.now.rg a
    let n := (s.now.rg b).toNat % 2 ^ 32
    let inQuire := 0xFF0000000000 ≤ w.toNat ∧ w.toNat < 0xFF0001000000
    let place := checkQuire s.cur s.now.seat w.toNat 16
    let words := [Instr.wmkInit ⟨g, a, b⟩, .wmkWait ⟨g, a, b⟩, .wmkAdd ⟨g, a, b⟩, .wmkGen ⟨g, d, a⟩, .wmkTest ⟨g, p, a, b⟩]
    (w.toNat % 16 ≠ 0 → ∀ i ∈ words, s.traps i { cause := .align, taddr := w }) ∧
    (w.toNat % 16 = 0 → ¬ inQuire ∨ (∃ c ti, place = .trap c ti) → ∀ i ∈ words, s.traps i { cause := .window, taddr := w }) ∧
    (w.toNat % 16 = 0 → inQuire → place = .ok (.mem k) → s.still → s.now.watch true true (run w.toNat 16) = .go → s.clean k 16 →
      Memory.wf s.mem = true → s.waymarkIs k target count gen aux →
      let becomes := fun (i : Instr) (target count gen aux : Nat) => ∃ u : State, exec i s = .next (u.done id) ∧
        u.waymarkIs k target count gen aux ∧ sameOutside s u k 16 ∧
        s.timed { u with mem := s.mem, memBad := s.memBad, memSoft := s.memSoft }
      let reads := fun (i : Instr) (f : Core → Core) => ∃ u : State, s.timed u ∧ exec i s = .next (u.done f)
      becomes (.wmkInit ⟨g, a, b⟩) n 0 gen 0 ∧
      (gen = n → s.waits (.wmkWait ⟨g, a, b⟩)) ∧ (gen ≠ n → reads (.wmkWait ⟨g, a, b⟩) id) ∧
      (s.silent ∨ target = 0 ∨ count + n ≤ target →
        let z := arrivalOf target count gen aux n
        becomes (.wmkAdd ⟨g, a, b⟩) target z.1 z.2.1 z.2.2) ∧
      (∃ v : Word, v.toNat = gen ∧ reads (.wmkGen ⟨g, d, a⟩) (·.setG d v)) ∧
      reads (.wmkTest ⟨g, p, a, b⟩) (·.setP p (decide (gen ≠ n))))

/-! ### Engine commands -/

/-- The engine command words. -/
def engineWord : EngOp → OpE → Instr
  | .mload => .mload | .mswap => .mswap | .mcfg => .mcfg | .mgo => .mgo | .mstream => .mstream | .mdrain => .mdrain
  | .mzero => .mzero | .mmode => .mmode | .wtab => .wtab | .wstream => .wstream | .cpy => .cpy | .cnest => .cnest
  | .cmc => .cmc | .cacc => .cacc | .cgat => .cgat | .csct => .csct | .cstage => .cstage | .fbind => .fbind
  | .ftick => .ftick | .walk => .walk

/-- Bytes, and alignment, of the descriptor that a command names by g[A]; 0 where it names none (R202, R209, R247). -/
def descriptorBytes (op : EngOp) (a : Word) : Nat :=
  if op ∈ [EngOp.cpy, .cmc, .cacc, .cgat, .csct, .walk] then 32
  else if op = .cnest ∨ (op = .fbind ∧ a ≠ 0) then 64 else 0

/-- R39, R40, R239, R245: an engine command word is checked and issued: it joins its queue with its operands and its snapshots, takes the
next place of its token slot and, on a channel, the next transfer identifier; ISSUE is emitted, and the sequencer runs on. With
a full queue it stalls. -/
def Obligations.EngineIssue : Prop :=
  ∀ (s : State) (op : EngOp) (o : OpE), s.queues o.toGuard [bg o.a, bg o.b, .tok o.t.toNat] →
    let x := s.now.ctx
    let a := s.now.rg o.a
    let b := s.now.rg o.b
    let e := x.eng (opQueue op)
    let i := engineWord op o
    let n := descriptorBytes op a
    let inSpad := 0xFF0000400000 ≤ a.toNat ∧ a.toNat ≤ 0xFF00004BFFFF ∧ needsSpad s.now.seat.needs (a.toNat - 0xFF0000400000) n = true
    let outstanding := fun (t : Tok) => (t.iss.toNat + 2 ^ 16 - t.dn.toNat) % 2 ^ 16
    (∀ t ∈ consumed b, Bad.tok t.toNat ∉ s.now.bad) →
    (n ≠ 0 → a.toNat % n ≠ 0 → s.traps i { cause := .align, taddr := a }) ∧
    (n ≠ 0 → a.toNat % n = 0 → ¬ inSpad → s.traps i { cause := .window, taddr := a }) ∧
    (n = 0 ∨ (a.toNat % n = 0 ∧ inSpad) →
      (∀ h : o.t.toNat < 63, outstanding (x.tok[o.t.toNat]'h) = 2 ^ 15 - 1 →
        s.traps i { cause := .token, tinfo := BitVec.ofNat 64 o.t.toNat }) ∧
      ((∀ h : o.t.toNat < 63, outstanding (x.tok[o.t.toNat]'h) ≠ 2 ^ 15 - 1) →
        (32 ≤ e.queue.length → s.waits i) ∧
        (e.queue.length < 32 → ∃ (k : Cmd) (c : Core),
          exec i s = .next (((s.setCore s.cur c).emit (some s.cur) s.now.seat.part s.cur (queueUnit (opQueue op)) 0x10
            (s.now.loopTag o.toGuard) (opFn op + o.t.toNat * 2 ^ 5 + e.next % 2 ^ 26 * 2 ^ 11)).mapCore s.cur Core.advance) ∧
          k.op = op ∧ k.tp = o.t ∧ k.a = a ∧ k.b = b ∧ k.st = .queued ∧ k.num = e.next ∧
          k.snaps = (consumed b).map (fun t => (t, (x.token t).iss)) ∧
          c.ctx.eng (opQueue op) = { e with queue := e.queue ++ [k], next := e.next + 1 } ∧
          (∀ q, q ≠ opQueue op → c.ctx.eng q = x.eng q) ∧
          (∀ j : Fin 63, c.ctx.tok[j] = if j.val = o.t.toNat then { x.tok[j] with iss := x.tok[j].iss + 1 } else x.tok[j]) ∧
          (∀ j : Fin 8, c.ctx.ceid[j] = if isTransfer op = true ∧ j.val = b.toNat / 2 ^ 37 % 8 then x.ceid[j] + 1 else x.ceid[j]) ∧
          c.ctx.warn = (if namesSlot63 b = true then x.warn ||| 4 else x.warn) ∧
          c = { s.now with ctx := { x with
            tok := c.ctx.tok, ceid := c.ctx.ceid, warn := c.ctx.warn, engMe := c.ctx.engMe, engWs := c.ctx.engWs
            engCe := c.ctx.engCe, engBank := c.ctx.engBank } })))

/-- R269, R270: a wave of `k` at address `ar` and row `r` runs: its activation row is aligned, lies in the core's own scratchpad, and is
read as `l` with the state `u`, and no error has been met. -/
def waveRuns (s u : State) (p : Nat) (k : Cmd) (l : List Byte) (ar r : Nat) : Prop :=
  let c := s.core p
  let n := rowBytes c.ctx.me.active.sp (k.b.toNat % 16) (k.b.getLsbD 4)
  c.ctx.streaming = some k ∧ k.run.status.isSome = true ∧ c.works .me = true ∧ r < 1024 ∧ ar % 4 = 0 ∧ inSelf c.seat ar n = true ∧
  s.engRead p k ar n = .ok l u ∧ c.accErrs r = [] ∧ k.run.rows = []

/-- R270: that wave updates row `r`, and no other, and the flags, and moves the position. -/
def waveDone (s u : State) (p : Nat) (k : Cmd) (l : List Byte) (r : Nat) : Prop :=
  let w := waveRow (s.core p).ctx.me.active l (k.b.toNat % 16) (k.b.getLsbD 4) (k.b.getLsbD 20) ((s.core p).accRow r)
  ∃ d : Core, exec (.wave p) s = .next (u.setCore p d) ∧
    (∀ q < 1024, d.accRow q = if q = r then w.1 else (u.core p).accRow q) ∧ d.mefl = (u.core p).mefl ||| w.2 ∧
    (∀ j ∈ d.ctx.engMe.run, j.num = k.num → j.run.pos = k.run.pos + 1) ∧
    d = { u.core p with
      acc := d.acc, accBad := d.accBad, mefl := d.mefl
      ctx := { (u.core p).ctx with engMe := { (u.core p).ctx.engMe with run := d.ctx.engMe.run } } }

/-- R240, R242, R270, R271, R274 to R278: a queue starts no command before its consumed tokens are satisfied; an `mload` leaves its queue and runs; an
`mcfg` sets its level of the nest and completes; a running `mswap` exchanges the planes and completes with its token; a wave of an `mstream`
updates its target row, and no other, from the activation row at its address. No sink is enabled. -/
def Obligations.MatrixEvents : Prop :=
  ∀ (s : State) (p : Nat), p < 640 → s.silent →
    let c := s.core p
    let x := c.ctx
    (∀ q (k : Cmd) rest, (x.eng q).queue = k :: rest → (q = .ce → x.engCe.released = []) →
      (∃ t ∈ k.snaps, 2 ^ 15 ≤ ((x.token t.1).dn.toNat + 2 ^ 16 - t.2.toNat) % 2 ^ 16) →
      exec (.engineCommandStart p q) s = .next s) ∧
    (∀ (k : Cmd) rest, x.engMe.queue = k :: rest → c.mayStart .me = true → k.ready x = true → (∀ r ∈ rest, r.num ≠ k.num) →
      (k.op = .mload → (∀ r ∈ x.engMe.run, r.op ≠ .mload ∧ r.op ≠ .mswap) → tileBad k = false → k.a.toNat % 64 = 0 →
        exec (.engineCommandStart p .me) s = .next (s.setCore p { c with ctx := { x with engMe := { x.engMe with
          queue := rest, run := x.engMe.run ++ [{ k with st := .running }] } } })) ∧
      (k.op = .mcfg → k.b.toNat % 8 < 6 → (∀ r ∈ x.engMe.run, r.num ≠ k.num) →
        ∃ t, exec (.engineCommandStart p .me) s = .next t ∧ sameMemory s t ∧
          let y := (t.core p).ctx
          (∀ j : Fin 6, y.me.c[j] = (if j.val = k.b.toNat % 8 then k.b.extractLsb' 8 16 else x.me.c[j]) ∧
            (y.me.ast[j]).toInt = (if j.val = k.b.toNat % 8 then (k.a.toNat : Int).bmod (2 ^ 32) else (x.me.ast[j]).toInt) ∧
            y.me.rst[j] = (if j.val = k.b.toNat % 8 then k.b.extractLsb' 24 12 else x.me.rst[j])) ∧
          y.me.active = x.me.active ∧ y.me.shadow = x.me.shadow ∧ y.engMe.queue = rest ∧ y.engMe.run = x.engMe.run ∧
          tokenCompletes x y k.tp k.place ∧ y.g = x.g ∧ y.p = x.p ∧ y.pc = x.pc)) ∧
    (∀ k : Cmd, x.cmd .me k.num = some k → k.op = .mswap → k.st = .running → k.run.status.isSome = true → k.run.rows = [] →
      c.works .me = true → c.dbgHolds = false → ∃ t, exec (.engineCommandComplete p .me k.num) s = .next t ∧ sameMemory s t ∧
        let y := (t.core p).ctx
        y.me = { x.me with active := x.me.shadow, shadow := x.me.active } ∧ y.engMe.run = x.engMe.run.filter (·.num != k.num) ∧
        tokenCompletes x y k.tp k.place ∧ y.g = x.g ∧ y.p = x.p ∧ y.pc = x.pc) ∧
    (∀ (k : Cmd) (l : List Byte) (u : State), k.op = .mstream → k.run.pos < k.b.toNat / 2 ^ 24 % 2 ^ 11 →
      let r := k.b.toNat / 2 ^ 8 % 2 ^ 10 + k.run.pos
      waveRuns s u p k l ((k.a.toNat + k.run.pos * rowBytes x.me.active.sp (k.b.toNat % 16) (k.b.getLsbD 4)) % 2 ^ 64) r →
      waveDone s u p k l r)

/-- R98 to R101, R270: column `n` of a wave. The products of the kept positions are summed exactly and rounded once to FP32 to nearest; any
NaN product makes the pass a NaN; with ACCUM the result is added to the old element, and every NaN is written as 0x7FC0_0000. -/
def columnIs (pl : Plane) (row : List Byte) (fmt : Nat) (sc accum : Bool) (old n r : Nat) : Prop :=
  let ps := (pl.kept n).zipIdx.map fun e => (pl.weight n e.2 e.1).mul (actElem row (rowElems pl.sp) fmt sc e.1)
  let value := fun g : Grid => if g.z then (0 : Rat) else (if g.s then -1 else 1) * (t32At g.f : Rat) * 2 ^ (g.e - 23)
  let nan := ∃ g ∈ ps, g.n = true
  let isNan := fun z => isNanCode 24 8 z true ∨ isNanCode 24 8 z false
  ∃ q, (nan → q = 0x7FC00000) ∧ (¬ nan → gives 24 8 .rne (ps.map value).sum false q fun _ => True) ∧
    (accum = false → r = q) ∧
    (accum = true → (isNan old ∨ isNan q → r = 0x7FC00000) ∧
      (¬ (isNan old ∨ isNan q) → sumIs 24 8 .rne false old q r fun _ => True))

/-- One unit of work of a started engine command moves next (the agenda, log 3). -/
def unitOf (s : State) (p : Nat) (q : EngQ) (num i : Nat) : Out := step { s with agenda := [.work p q num i] }

/-- Command `k` of queue `q` has completed between `u` and `t`: it is gone, and its token counts (R240, R241). -/
def commandEnds (u t : State) (p : Nat) (q : EngQ) (k : Cmd) : Prop :=
  ((t.core p).ctx.eng q).run = ((u.core p).ctx.eng q).run.filter (·.num != k.num) ∧
  tokenCompletes (u.core p).ctx (t.core p).ctx k.tp k.place

/-- R270, R277, R278: a wave's row is that of R98 to R101, and an `mgo` takes its waves through the nest: the address and the row of wave i
are those of its digits, the first level fastest. -/
def waveResults : Prop :=
  (∀ (pl : Plane) (row : List Byte) (fmt : Nat) (sc accum : Bool) (old : Vector Elem 128) (n : Fin 128),
    columnIs pl row fmt sc accum (old[n]).toNat n ((waveRow pl row fmt sc accum old).1[n]).toNat) ∧
  ∀ (s u : State) (p : Nat) (k : Cmd) (l : List Byte) (ar r : Nat), p < 640 → s.silent → k.op = .mgo →
    k.run.c.length = 6 → k.run.ast.length = 6 → k.run.rst.length = 6 → k.run.pos < k.run.c.prod →
    let digit := fun j => k.run.pos / (k.run.c.take j).prod % k.run.c.getD j 1
    (ar : Int) = (k.a.toNat + ∑ j ∈ Finset.range 6, digit j * (k.run.ast.getD j 0).toInt) % 2 ^ 64 →
    (r : Int) = (k.b.toNat / 2 ^ 8 % 2 ^ 10 : Nat) + ∑ j ∈ Finset.range 6, digit j * k.run.rst.getD j 0 →
    waveRuns s u p k l ar r → waveDone s u p k l r

/-- R274, R281, R286 to R289: `mmode` sets the drain mode and completes; a tile that an `mload` has read, or a `wstream` decoded, latches
into the shadow plane if its groups are right (R268); a code table that a `wtab` has read is kept if it is complete. -/
def loadResults (s : State) (p : Nat) : Prop :=
  let c := s.core p
  let x := c.ctx
  let latches := fun (q : EngQ) (k : Cmd) (l : List Byte) (u : State) =>
    let pl : Plane := ⟨true, k.b.extractLsb' 0 4, k.b.getLsbD 4, k.b.getLsbD 5, k.b.extractLsb' 8 8, l.toArray⟩
    pl.groupsOk = true → (u.core p).dbgHolds = false →
    ∃ t, unitOf s p q k.num 0 = .next t ∧ sameMemory u t ∧ commandEnds u t p q k ∧
      (t.core p).ctx.me = { (u.core p).ctx.me with shadow := pl }
  let size := fun (k : Cmd) => recordSize (k.b.toNat % 16) (k.b.getLsbD 4) (k.b.getLsbD 5)
  (∀ (k : Cmd) rest, x.engMe.queue = k :: rest → c.mayStart .me = true → k.ready x = true → (∀ r ∈ rest, r.num ≠ k.num) →
    k.op = .mmode → (∀ r ∈ x.engMe.run, r.num ≠ k.num) →
    let m := k.b.toNat % 4
    ∃ t, exec (.engineCommandStart p .me) s = .next t ∧ sameMemory s t ∧
      let y := (t.core p).ctx
      y.me = { x.me with rm := if m = 1 then .rz else if m = 2 then .ra else .nearest, satf := k.b.getLsbD 2 } ∧
      y.warn = (if m = 3 then x.warn ||| 0x80 else x.warn) ∧ y.engMe.queue = rest ∧ y.engMe.run = x.engMe.run ∧
      tokenCompletes x y k.tp k.place) ∧
  (∀ (k : Cmd) (l : List Byte) (u : State), x.cmd .me k.num = some k → k.op = .mload → k.st = .running → c.works .me = true →
    s.engRead p k k.a.toNat (size k) = .ok l u → latches .me k l u) ∧
  (∀ (k : Cmd) (l tb : List Byte) (u : State), x.cmd .ws k.num = some k → k.op = .wstream → k.st = .running → c.works .ws = true →
    x.ctab = some tb → s.inflate p k (tableCodes tb) ⟨0, 0, [], size k, false⟩ k.a.toNat (k.b.toNat / 2 ^ 20 % 2 ^ 20) = .ok l u →
    latches .ws k l u) ∧
  (∀ (k : Cmd) (l : List Byte) (u : State), x.cmd .ws k.num = some k → k.op = .wtab → k.st = .running → c.works .ce = true →
    s.engRead p k k.a.toNat 256 = .ok l u → (u.core p).dbgHolds = false →
    let complete := (∀ b ∈ l, b.toNat ≤ 15) ∧
      ((l.map fun b => if b = 0 then 0 else 2 ^ (15 - b.toNat)).sum = 2 ^ 15 ∨ l.filter (· ≠ 0) = [1])
    ∃ t, unitOf s p .ws k.num 0 = .next t ∧ (¬ complete → (t.core p).ctx.ctab = (u.core p).ctx.ctab) ∧
      (complete → (t.core p).ctx.ctab = some l ∧ sameMemory u t ∧ commandEnds u t p .ws k))

/-- R279, R280: `mzero` clears its rows in turn. A row of an `mdrain` without an error is converted; each of its bytes stands at its address
or waits in the engine to be written there, and with CLEAR the row is then zero; a word that waits is written, and no other byte. -/
def drainResults (s : State) (p : Nat) : Prop :=
  let c := s.core p
  let x := c.ctx
  let going := fun (k : Cmd) => x.cmd .me k.num = some k ∧ k.st = .running
  let row := fun (k : Cmd) => k.b.toNat % 2 ^ 10 + k.run.pos
  let rows := fun (k : Cmd) => k.run.pos < k.b.toNat / 2 ^ 10 % 2 ^ 11 ∧ row k < 1024
  let zero : Vector Elem 128 := Vector.replicate 128 0
  (∀ (k : Cmd), going k → k.op = .mzero → k.run.status.isSome = true → c.works .me = true → k.run.rows = [] → rows k →
    ∃ t, unitOf s p .me k.num 0 = .next t ∧ sameMemory s t ∧
      (t.core p).ctx.cmd .me k.num = some { k with run := { k.run with pos := k.run.pos + 1 } } ∧
      ∀ q < 1024, (t.core p).accRow q = if q = row k then zero else c.accRow q) ∧
  (∀ (k : Cmd), going k → k.op = .mdrain → k.run.status.isSome = true → c.works .me = true → k.run.buf = [] → rows k →
    let fmt := k.b.toNat / 2 ^ 24 % 16
    let sc := k.b.getLsbD 28
    let size := 128 * (if fmt = 0 then 4 else if fmt = 1 then 2 else 1) + if sc then 4 else 0
    let va := k.a.toNat + k.run.pos * size
    let key := spadKey p (va % 2 ^ 20)
    let w := drainRow fmt sc k.run.rm k.run.satf (c.accRow (row k))
    va % 2 ^ 20 + size ≤ 0xC0000 → s.clean key size → Memory.wf s.mem = true → c.accErrs (row k) = [] →
    ∃ t j, unitOf s p .me k.num 0 = .next t ∧ (t.core p).ctx.cmd .me k.num = some j ∧
      j = { k with run := { k.run with buf := j.run.buf } } ∧
      (∀ o < size, Memory.get t.mem (key + o) = w.1.getD o 0 ∨ (va + o, w.1.getD o 0) ∈ j.run.buf) ∧
      (∀ e ∈ j.run.buf, ∃ o < size, e = (va + o, w.1.getD o 0)) ∧ sameOutside s t key size ∧ (t.core p).mefl = c.mefl ||| w.2 ∧
      ∀ q < 1024, (t.core p).accRow q = if q = row k ∧ k.b.getLsbD 29 = true then zero else c.accRow q) ∧
  (∀ (k : Cmd) (i : Nat), going k → k.op = .mdrain → c.works .ce = true → k.run.rows = [] →
    let w := (k.run.buf.drop (4 * i)).take 4
    let key := fun (e : Nat × Byte) => spadKey p (e.1 % 2 ^ 20)
    w ≠ [] → (k.run.buf.map key).Nodup → (∀ e ∈ w, s.clean (key e) 1) → Memory.wf s.mem = true →
    ∃ t j, unitOf s p .me k.num i = .next t ∧ (t.core p).ctx.cmd .me k.num = some j ∧ (∀ e ∈ w, Memory.get t.mem (key e) = e.2) ∧
      (∀ a, (∀ e ∈ w, a ≠ key e) → Memory.get t.mem a = Memory.get s.mem a) ∧ j.run.buf = k.run.buf.filter (!w.contains ·) ∧
      j.run.pos = if j.run.buf = [] then k.run.pos + 1 else k.run.pos)

/-- R98 to R101, R104, R268 to R281, R286 to R289: what the commands of the matrix engine and of the weight stream do to the data once they
have started: the waves of `mgo` and `mstream`, the rows of `mdrain` and `mzero`, the drain mode of `mmode`, the tiles of `mload` and
`wstream`, and the table of `wtab`. Entry into the grid, the drain conversion and the code words are the model's functions of R94 to R97,
R104 and R286. That a row of a drain is written in 4-byte words, and that the doublewords it covers in part are written with it, are the
model's choices (logs 38, 54). No sink is enabled. -/
def Obligations.MatrixResults : Prop :=
  waveResults ∧ ∀ (s : State) (p : Nat), p < 640 → s.silent → s.atRest → loadResults s p ∧ drainResults s p

/-- R253, R255, R256: a `cmc` claims a free slot of the lay-by once no tile of its task carries its tag; a `cacc` takes the tile of
its task with its tag that names its member, and waits while there is none; the bytes that a copy has written arrive at its
waymark. That a tile's tag counts from the claim of its slot, and that a tile which one `cacc` of a member holds is not taken by a second, are
the model's choices (log 35). -/
def Obligations.CopyEvents : Prop :=
  ∀ (s : State) (p : Nat) (k : Cmd), (s.core p).ctx.cmd .ce k.num = some k → k.run.status.isSome = true →
    let seat := (s.core p).seat
    let d := k.run.desc
    let lay := quireNo p
    let same := fun (t : Tile) => t.quire = lay ∧ t.part = seat.part ∧ t.tcb = seat.tcb ∧ t.tag.toNat = cTag d
    let mine := fun (t : Tile) => same t ∧ t.rx.getLsbD (memberNo seat) = true ∧
      ∀ r ∈ (s.core p).ctx.engCe.run, r.op = .cacc → r.run.parked ≠ some t.slot
    let goesOn := fun (t : State) (j : Cmd) => (t.core p).ctx.cmd .ce k.num = some j
    (k.op = .cmc → k.st = .running → k.run.parked = none → (s.core p).works .ce = true →
      ((∃ t ∈ s.tiles, same t) → exec (.parking p k.num) s = .next s) ∧
      ((∀ n < 16, ∃ t ∈ s.tiles, t.quire = lay ∧ t.slot = n) → exec (.parking p k.num) s = .next s) ∧
      ((∀ t ∈ s.tiles, ¬ same t) → (∃ n < 16, ∀ t ∈ s.tiles, t.quire = lay → t.slot ≠ n) →
        ∃ t n, exec (.parking p k.num) s = .next t ∧ n < 16 ∧ (∀ u ∈ s.tiles, u.quire = lay → u.slot ≠ n) ∧
          t.tiles = s.tiles ++ [⟨lay, n, seat.part, seat.tcb, BitVec.ofNat 16 (cTag d), 0, [], []⟩] ∧
          goesOn t { k with run := { k.run with parked := some n } } ∧ sameMemory s t)) ∧
    (k.op = .cacc → k.st = .kept → k.run.parked = none → (s.core p).streams = true →
      ((∀ t ∈ s.tiles, ¬ mine t) → exec (.tileDrain p k.num) s = .next s) ∧
      (∀ t ∈ s.tiles, mine t → (∀ u ∈ s.tiles, mine u → u = t) → t.bad = [] →
        ∃ z, exec (.tileDrain p k.num) s = .next z ∧ z.tiles = s.tiles ∧ sameMemory s z ∧
          goesOn z { k with
            st := .running
            run := { k.run with parked := some t.slot, pos := t.bytes.length / 4, buf := (run 0 t.bytes.length).zip t.bytes } })) ∧
    (∀ n key target count gen aux, k.op ∈ [EngOp.cpy, .cnest, .cacc] → k.st = .running → (s.core p).works .ce = true → cWe d = true →
      0 < n → k.run.arrived + n ≤ 4 * k.run.done.length → s.copyCheck p true (cAux d) 16 = .ok (.mem key) → isSpad key = true →
      s.clean key 16 → Memory.wf s.mem = true → s.waymarkIs key target count gen aux →
      (s.silent ∨ target = 0 ∨ count + n ≤ target) →
      let z := arrivalOf target count gen aux n
      ∃ t, exec (.waymarkArrival p k.num n) s = .next t ∧ t.waymarkIs key target z.1 z.2.1 z.2.2 ∧ sameOutside s t key 16 ∧
        goesOn t { k with run := { k.run with arrived := k.run.arrived + n } })

/-- R246, R250, R251, R257: source `S` and destination `D` of word `w` of a transfer with its descriptor; `cgat` and `csct` move the rows
that their mask selects. -/
def copyAddrs (k : Cmd) (w S D : Nat) : Prop :=
  let f := fun o n => fieldLE k.run.desc o n
  let g := fun o : Nat => ((f o 4 : Nat) : Int).bmod (2 ^ 32)
  let rb := if k.op = .cgat ∨ k.op = .csct then f 0x10 4 % 2 ^ 16 else f 0x10 4
  let row := w / (rb / 4)
  let o := 4 * (w % (rb / 4))
  let j1 : Int := row % f 0x20 4
  let j2 : Int := row / f 0x20 4
  let sel := k.run.rows.getD row 0
  (k.op = .cpy → (S : Int) = ((f 0 8 + 4 * w : Nat) : Int) % 2 ^ 64 ∧ (D : Int) = ((f 8 8 + 4 * w : Nat) : Int) % 2 ^ 64) ∧
  (k.op = .cnest → (S : Int) = (f 0 8 + j1 * g 0x28 + j2 * g 0x30 + o) % 2 ^ 64 ∧
    (D : Int) = (f 8 8 + j1 * g 0x2C + j2 * g 0x34 + o) % 2 ^ 64) ∧
  (k.op = .cgat → S = (f 0 8 + sel * rb + o) % 2 ^ 64 ∧ D = (f 8 8 + row * rb + o) % 2 ^ 64) ∧
  (k.op = .csct → S = (f 0 8 + row * rb + o) % 2 ^ 64 ∧ D = (f 8 8 + sel * rb + o) % 2 ^ 64)

/-- R244, R245, R248, R250, R251, R257: a started `cpy`, `cnest`, `cgat` or `csct` moves each of its words from its source to its destination
and changes no other byte: here a word between memories without errors, that no other word of the transfer overlaps, while no other transfer
of the channel is under way. A mask of at most 32 rows selects the rows whose bits are set. A `cpy` or `cnest` that has moved every word, with
no waymark, completes with its token and its milepost. No sink is enabled. -/
def Obligations.CopyMoves : Prop :=
  ∀ (s : State) (p : Nat) (k : Cmd), p < 640 → s.silent → s.atRest →
    let c := s.core p
    let x := c.ctx
    x.cmd .ce k.num = some k → k.op ∈ [EngOp.cpy, .cnest, .cgat, .csct] → k.st = .running → k.run.status.isSome = true →
    c.works .ce = true →
    (∀ w S D a b, k.geometry = true → w < k.words → w ∉ k.run.done → k.run.buf = [] → copyAddrs k w S D → S < 2 ^ 64 → D < 2 ^ 64 →
      s.copyCheck p false S 4 = .ok (.mem b) → s.copyCheck p true D 4 = .ok (.mem a) → s.clash p k w (.mem a) = false →
      (∀ e ∈ x.engCe.run, e.chan = k.chan → e = k) → s.clean b 4 → s.lentOut b = false → s.writable a 4 → Memory.wf s.mem = true →
      ∃ t, unitOf s p .ce k.num w = .next t ∧ Memory.gets t.mem a 4 = Memory.gets s.mem b 4 ∧ sameOutside s t a 4 ∧
        (t.core p).ctx.cmd .ce k.num = some { k with run := { k.run with done := k.run.done ++ [w] } }) ∧
    (∀ m, k.op = .cgat ∨ k.op = .csct → k.geometry = false → k.run.buf = [] →
      let base := fieldLE k.run.desc 0x18 8
      let n := fieldLE k.run.desc 0x10 4 / 2 ^ 16
      0 < n → n ≤ 32 → base % 4 = 0 → s.copyCheck p false base 4 = .ok (.mem m) → s.clean m 4 → s.lentOut m = false →
      ∃ t j, unitOf s p .ce k.num 0 = .next t ∧ sameMemory s t ∧ (t.core p).ctx.cmd .ce k.num = some j ∧ j.geometry = true ∧
        j.run.rows = (List.range n).filter fun i => (littleEndian s m 4).testBit i) ∧
    (k.op = .cpy ∨ k.op = .cnest → (∀ w < k.words, w ∈ k.run.done) → cWe k.run.desc = false → s.sealedAll p k = true →
      c.dbgHolds = false → ∃ t, exec (.engineCommandComplete p .ce k.num) s = .next t ∧ sameMemory s t ∧ commandEnds s t p .ce k ∧
        (x.mpAhead = [] → ∀ j : Fin 8, (t.core p).ctx.mp[j] =
          if j.val = k.chan.toNat ∧ k.xid = x.mp[j] + 1 then k.xid else x.mp[j]))

/-- R208, R214: the entry at key `k` has ticked from state `s` to `t` by the descriptor `d`: the recursion in exact integers, rounded at
2^18, the dead band, the clamps, and the history moved by one. -/
def tickedEntry (s t : State) (d : List Byte) (k : Nat) : Prop :=
  let i32 := fun (u : State) o => ((littleEndian u (k + o) 4 : Nat) : Int).bmod (2 ^ 32)
  let coef := fun o => ((fieldLE d o 4 : Nat) : Int).bmod (2 ^ 20)
  let cfg := fieldLE d 0x14 4
  let acc := ((littleEndian s (k + 20) 6 : Nat) : Int).bmod (2 ^ 48)
  let clamp := fun v : Int => max (-2 ^ 31) (min v (2 ^ 31 - 1))
  let v := coef 0x20 * acc + coef 0x24 * i32 s 12 - coef 0x2C * i32 s 0 +
    if cfg.testBit 2 then coef 0x28 * i32 s 16 - coef 0x30 * i32 s 4 else 0
  let dead := fieldLE d 0x1A 2
  (∃ q : Int, (cfg.testBit 8 = true → q = v.tdiv (2 ^ 18)) ∧ (cfg.testBit 8 = false → |(q : Rat) - v / 2 ^ 18| ≤ 1 / 2 ∧ (|(q : Rat) - v / 2 ^ 18| = 1 / 2 → q % 2 = 0)) ∧
    i32 t 0 = if dead ≠ 0 ∧ acc = 0 ∧ q.natAbs ≤ dead then 0 else clamp q) ∧
  i32 t 4 = i32 s 0 ∧ i32 t 8 = i32 s 4 ∧ i32 t 12 = clamp acc ∧ i32 t 16 = i32 s 12 ∧ littleEndian t (k + 20) 8 = 0 ∧
  littleEndian t (k + 28) 4 = (littleEndian s (k + 28) 4 + 1) % 2 ^ 32

/-- A started BANK command has settled its status between `s` and `t` (R217), in its first unit of work. -/
def settles (s : State) (p : Nat) (k : Cmd) (t : State) (code : BitVec 3) (reason : BitVec 4) : Prop :=
  unitOf s p .bank k.num 0 = .next t ∧
  (t.core p).ctx.cmd .bank k.num = some { k with run := { k.run with status := some (code, reason) } }

/-- R207, R209: what an `fbind` with a descriptor `d`, whose window words and backing entries are `cells`, does. -/
def bankBinds (s : State) (p : Nat) (k : Cmd) (d : List Byte) (cells : List (Nat × Nat)) : Prop :=
  let part := (s.core p).seat.part
  let slot := k.b.extractLsb' 0 4
  let win : Word := BitVec.ofNat 64 (fieldLE d 0 8)
  let old := s.regionOf part win
  let taken := fun c : Nat × Nat => ∃ q ∈ s.regions, some q ≠ old ∧ q.uses c = true
  let full := fun c : Nat × Nat => (if homeNo c.2 < 128 then 16 else 64) ≤ (s.regions.filter (·.atHome (homeNo c.2))).length
  let fails := fun (code : BitVec 3) (reason : BitVec 4) => ∃ t, settles s p k t code reason ∧ t.regions = s.regions ∧ sameMemory s t
  let binds := fun (t : State) => settles s p k t 0 0 ∧ ((t.core p).ctx.fslots[slot.toNat]'slot.isLt).bound = some win
  let fresh : Region := ⟨part, win, d, cells, 1, [], [], [], []⟩
  let busy := ∃ h ∈ stacksOf (cells.map Prod.snd), s.hbm.queueFull h = true
  (old = none → (∃ c ∈ cells, taken c) → (∀ c ∈ cells, ¬ full c) → fails 5 4) ∧
  (old = none → (∀ c ∈ cells, ¬ taken c) → (∃ c ∈ cells, full c) → fails 5 5) ∧
  (old = none → (∀ c ∈ cells, ¬ taken c ∧ ¬ full c) →
    (busy → fails 3 0) ∧
    (¬ busy → dClear d = false → ∃ t, binds t ∧ t.regions = s.regions ++ [fresh] ∧ sameMemory s t) ∧
    (¬ busy → dClear d = true → (∀ e ∈ cells, s.cellWaits e.2 = false) →
      ((s.writeErr (cells.flatMap fun e => run e.2 32)).isSome = true → fails 5 7) ∧
      (s.writeErr (cells.flatMap fun e => run e.2 32) = none → ∃ t, binds t ∧ t.regions = s.regions ++ [fresh] ∧
        (∀ e ∈ cells, ∀ o < 32, Memory.get t.mem (e.2 + o) = 0) ∧
        ∀ a, (∀ e ∈ cells, a < e.2 ∨ e.2 + 32 ≤ a) → Memory.get t.mem a = Memory.get s.mem a))) ∧
  (∀ r, old = some r → (∀ c ∈ cells, r.atHome (homeNo c.2) = true ∨ (¬ taken c ∧ ¬ full c)) →
    (sameRegion r.desc d = false → fails 5 4) ∧
    (sameRegion r.desc d = true → (busy → fails 3 0) ∧
      (¬ busy → ∃ t, binds t ∧ sameMemory s t ∧ t.regionOf part win = some { r with
        count := r.count + 1, cells := cells ++ r.cells.filter (!cells.contains ·) })))

/-- R205, R207, R209, R210, R214, R215: what the first unit of a started `fbind` does, a unit of an accepted `ftick`, and the record of a walk that
has ended. -/
def bankWorks (s : State) (p : Nat) (k : Cmd) : Prop :=
  let c := s.core p
  let x := c.ctx
  let part := c.seat.part
  let slot := k.b.extractLsb' 0 4
  let bound := (x.fslots[slot.toNat]'slot.isLt).bound
  (k.op = .fbind → k.a = 0 →
    (bound = none → ∃ t, settles s p k t 5 1 ∧ t.regions = s.regions ∧ sameMemory s t) ∧
    (∀ w r, bound = some w → s.regionOf part w = some r → ∃ t, settles s p k t 0 0 ∧ sameMemory s t ∧
      ((t.core p).ctx.fslots[slot.toNat]'slot.isLt).bound = none ∧
      t.regionOf part w = if r.count ≤ 1 then none else some { r with count := r.count - 1 })) ∧
  (k.op = .fbind → k.a ≠ 0 → bound.isSome = true → ∃ t, settles s p k t 5 1 ∧ t.regions = s.regions ∧ sameMemory s t) ∧
  (k.op = .fbind → k.a ≠ 0 → bound = none →
    let d := k.run.desc
    (dMalformed d = true → ∃ t, settles s p k t 5 2 ∧ t.regions = s.regions ∧ sameMemory s t ∧ (t.core p).ctx.fslots = x.fslots) ∧
    (dMalformed d = false → s.regionWaits part d = false →
      ((∃ i < dCells d, s.cellKeys part d i = none) → ∃ t, settles s p k t 5 3 ∧ t.regions = s.regions ∧ sameMemory s t) ∧
      ∀ cells, (List.range (dCells d)).mapM (s.cellKeys part d) = some cells → bankBinds s p k d cells)) ∧
  (∀ r i, k.op = .ftick → k.run.walk.started = true → s.tickRegion p k = some r → i ∈ tickCells k → i ∉ k.run.done →
    let group := (tickCells k).filter fun j => !k.run.done.contains j && granule (r.back j) == granule (r.back i)
    (group.map r.back).Nodup → (∀ j ∈ group, r.back j % 32 = 0 ∧ s.clean (r.back j) 32 ∧ s.lentOut (r.back j) = false) →
    ∃ t, unitOf s p .bank k.num i = .next t ∧ (∀ j ∈ group, tickedEntry s t r.desc (r.back j)) ∧
      (∀ a, (∀ j ∈ group, a < r.back j ∨ r.back j + 32 ≤ a) → Memory.get t.mem a = Memory.get s.mem a) ∧
      ∃ e, (t.core p).ctx.cmd .bank k.num = some e ∧ e.run.done = k.run.done ++ group ∧ e.run.arrived = k.run.arrived) ∧
  (∀ code : BitVec 4, k.op = .walk → k.run.walk.status = some code → k.run.walk.steps < 2 ^ 40 → k.run.buf.length = 64 →
    let key := k.run.c.getD 0 0
    let n := if code = 0 then 128 else 64
    isHbm key = true → isHbm (key + 127) = true → s.writable key n → (∀ j ∈ run key n, s.lentOut j = false) →
    ∃ t, unitOf s p .bank k.num 0 = .next t ∧ sameOutside s t key n ∧
      littleEndian t key 8 = code.toNat + (if k.run.walk.started then k.run.walk.steps else 0) * 2 ^ 16 ∧
      littleEndian t (key + 8) 8 = k.run.walk.ptr.toNat ∧ (∀ o < 48, Memory.get t.mem (key + 16 + o) = 0) ∧
      (code = 0 → Memory.gets t.mem (key + 64) 64 = k.run.buf.map Prod.snd))

/-- R209, R217: an `fbind` that starts shows BUSY in FSTAT of its slot and, where the slot is unbound, takes its descriptor from its error-free
bytes then: later stores do not change it. -/
def bankStarts (s : State) (p : Nat) : Prop :=
  let c := s.core p
  let x := c.ctx
  ∀ (k : Cmd) rest, x.engBank.queue = k :: rest → (∀ r ∈ rest ++ x.engBank.run, r.num ≠ k.num) → (∀ r ∈ x.engBank.run, r.op = .walk) →
    c.mayStart .bank = true → k.ready x = true → k.op = .fbind → k.a ≠ 0 →
    let slot := k.b.extractLsb' 0 4
    let f := x.fslots[slot.toNat]'slot.isLt
    let key := spadKey p (k.a.toNat % 2 ^ 20)
    f.bound = none → s.clean key 64 → ∃ t, exec (.engineCommandStart p .bank) s = .next t ∧ sameMemory s t ∧ t.regions = s.regions ∧
      (t.core p).ctx.engBank = { x.engBank with
        queue := rest, run := x.engBank.run ++ [{ k with st := .running, run := { k.run with desc := Memory.gets s.mem key 64 } }] } ∧
      ∀ j : Fin 16, (t.core p).ctx.fslots[j] = if j.val = slot.toNat then { f with code := 1, reason := 0 } else x.fslots[j]

/-- R205, R209, R215, R217: a BANK command that is over completes: its token counts, and FSTAT of its slot shows its status, with the sticky bits of
the region after an `fbind` that binds and after an `ftick` that ran. -/
def bankEnds (s : State) (p : Nat) (k : Cmd) : Prop :=
  let slot := k.b.extractLsb' 0 4
  let f := ((s.core p).ctx.fslots[slot.toNat]'slot.isLt)
  let i := Instr.engineCommandComplete p .bank k.num
  let ends := fun (t : State) => exec i s = .next t ∧ sameMemory s t ∧ t.regions = s.regions ∧ commandEnds s t p .bank k
  let shows := fun (t : State) (g : FSlot) => ((t.core p).ctx.fslots[slot.toNat]'slot.isLt) = g ∧
    ∀ j : Fin 16, j.val ≠ slot.toNat → (t.core p).ctx.fslots[j] = (s.core p).ctx.fslots[j]
  let unsealed := fun key n => isHbm key = true ∧ ∃ j ∈ run key n, stripeIdOf j ∈ s.hbm.pending
  (∀ code reason, k.op = .fbind ∨ k.op = .ftick → k.run.status = some (code, reason) →
    (k.op = .ftick ∨ k.a = 0 ∨ code ≠ 0 → ∃ t, ends t ∧ shows t { f with code := code, reason := reason }) ∧
    (∀ r, k.op = .fbind → k.a ≠ 0 → code = 0 → s.tickRegion p k = some r →
      (dClear r.desc = true → (∃ e ∈ r.cells, unsealed e.2 32) → exec i s = .next s) ∧
      (dClear r.desc = false ∨ (∀ e ∈ r.cells, ¬ unsealed e.2 32) → ∃ t, ends t ∧
        shows t { f with code := 0, reason := reason, sat := !r.sat.isEmpty, ovf := !r.ovf.isEmpty }))) ∧
  (∀ r, k.op = .ftick → k.run.status = none → s.tickRegion p k = some r →
    (k.run.walk.started = false ∨ (∃ j ∈ tickCells k, j ∉ k.run.done ∨ unsealed (r.back j) 32) → exec i s = .next s) ∧
    (k.run.walk.started = true → (∀ j ∈ tickCells k, j ∈ k.run.done ∧ ¬ unsealed (r.back j) 32) → ∃ t, ends t ∧
      shows t { f with
        code := if k.run.arrived = 0 then 0 else 5, reason := if k.run.arrived = 0 then 0 else 7
        sat := !r.sat.isEmpty, ovf := !r.ovf.isEmpty })) ∧
  (∀ code : BitVec 4, k.op = .walk → k.run.status.isSome = true → k.run.walk.status = some code → k.run.buf.length = 64 →
    let key := k.run.c.getD 0 0
    let n := if code = 0 then 128 else 64
    ((∃ j ∈ run key n, stripeIdOf j ∈ s.hbm.pending) → exec i s = .next s) ∧
    ((∀ j ∈ run key n, stripeIdOf j ∉ s.hbm.pending) → ∃ t, ends t ∧ (t.core p).ctx.fslots = (s.core p).ctx.fslots))

/-- R205, R207, R209, R210, R214, R215, R217: the BANK commands, from the start of an `fbind` on. An `fbind` registers its region, with its entries zeroed where
CLEAR says so, or counts one that stands, binds or unbinds its slot, or is refused with its reason and changes nothing; a unit of an `ftick` ticks
the cells of one granule, and no other byte changes; a walk that has ended writes its result record. FSTAT of the slot shows the status when the
command completes. No sink is enabled. That the granule of HBM backing is the 64-byte chunk, that a region keeps its translation, and that one
bound again is also registered where its cells now stand, with one count, are the model's choices (logs 36, 37, 55). -/
def Obligations.BankEvents : Prop :=
  ∀ (s : State) (p : Nat) (k : Cmd), p < 640 → s.silent → Memory.wf s.mem = true →
    let c := s.core p
    bankStarts s p ∧ (c.ctx.cmd .bank k.num = some k → k.st = .running → c.works .bank = true →
      (s.atRest → k.run.status = none → bankWorks s p k) ∧ (c.dbgHolds = false → bankEnds s p k))

/-- R26, R60, R75, R211, R212: the data of a piece of the oldest vector load arrives; a store into a window word deposits its
value in the cell (XF and TMODE 0, COUNT below 65,535) and leaves the queue; a STOP is taken in the waits of a TASK-mode halt (R175); a
core whose waits are over becomes idle and unbinds its slots. -/
def Obligations.QueueEvents : Prop :=
  ∀ (s : State) (p : Nat),
    let c := s.core p
    let x := c.ctx
    (∀ (l : LEntry) rest (j : Nat) (q : Piece) (k : Nat), x.lq = l :: rest → (∀ m ∈ rest, m.num ≠ l.num ∧ l.seq ≤ m.seq) → x.sq = [] →
      c.streams = true → c.late = [] → l.dropped = false → l.fault = none → l.pieces[j]? = some q → q.done = false → q.place = .mem k → q.n ≤ 8 →
      s.clean k q.n → s.lentOut k = false → ∃ (u : State) (v : Word), v.toNat = littleEndian s k q.n ∧ s.timed u ∧
        exec (.loadQueueData p l.num (some j)) s = .next (u.setCore p { c with ctx := { x with
          lq := { l with pieces := l.pieces.set j { q with done := true, data := v } } :: rest } })) ∧
    (∀ (e : SEntry) rest (q : Piece) (va k b i : Nat) (r : Region), x.sq = e :: rest → (∀ r ∈ rest, r.seq ≠ e.seq) → e.kind = .plain →
      e.pieces = [q] → q.place = .window va k → q.en = true → q.done = false → s.storeFree p e 0 q = true →
      s.regionAt c.seat.part k = some (r, i) → r.back i = b → s.clean b 32 → s.lentOut b = false → Memory.wf s.mem = true →
      dXf r.desc = 0 → dTmode r.desc = false → littleEndian s (b + 26) 2 < 65535 →
      ∃ t, exec (.deposit p e.seq 0) s = .next t ∧ (t.core p).ctx.sq = rest ∧ sameOutside s t (b + 20) 8 ∧
        (littleEndian t (b + 20) 6 : Int) = ((littleEndian s (b + 20) 6 : Int) + (q.data.toNat : Int).bmod (2 ^ 32)) % 2 ^ 48 ∧
        littleEndian t (b + 26) 2 = littleEndian s (b + 26) 2 + 1) ∧
    (c.phase = .halting → c.sys = false → c.stop = true → c.trap = none → exec (.coreIdle p) s = .next (s.raise p { cause := .stop })) ∧
    (c.haltDone = true → c.sys = true ∨ c.stop = false → ∃ t, exec (.coreIdle p) s = .next t ∧ (t.core p).phase = .halted ∧ (t.core p).prqReq = false ∧
      (t.core p).ctx.g = x.g ∧ (t.core p).ctx.order = [] ∧ ∀ i : Fin 16, ((t.core p).ctx.fslots[i]).bound = none) ∧
    (c.sys = true ∨ c.stop = false ∨ c.phase ≠ .halting → c.phase ≠ .halting ∨ x.sq ≠ [] ∨ x.lq ≠ [] ∨ x.vu.queue ≠ [] →
      exec (.coreIdle p) s = .next s)

/-! ### Stacks, scheduler and contexts -/

/-- R187, R197, R198, R200: a seal makes the parity chunk of its stripe fresh once every unit that writes the stripe has finished and its channel
can be written, and retraining and rebuilding change the state of channels
and chunks, as the rules say; each reports its event, and no byte of memory changes. No sink is enabled or holds a record. -/
def Obligations.HbmEvents : Prop :=
  ∀ (s : State), s.silent → (∀ i : Fin 17, s.sinks[i].wait = []) →
    (∀ i, (i ∉ s.hbm.pending → exec (.seal i) s = .next s) ∧
      (i ∈ s.hbm.pending → s.unitWriting i = true ∨ s.hbm.held (i / 50331648) (parityOf i) = true → exec (.seal i) s = .next s) ∧
      (i ∈ s.hbm.pending → s.unitWriting i = false → s.hbm.held (i / 50331648) (parityOf i) = false →
        let st := i % 50331648
        let par := 32 * i + (16 * (st % 2) + st / 2 % 16)
        ∃ t, exec (.seal i) s = .next t ∧ t = { s with hbm := t.hbm } ∧
          t.hbm = { s.hbm with pending := s.hbm.pending.filter (· ≠ i), crcBad := t.hbm.crcBad, stale := t.hbm.stale } ∧
          (∀ id, id ≠ par → (id ∈ t.hbm.crcBad ↔ id ∈ s.hbm.crcBad) ∧ (id ∈ t.hbm.stale ↔ id ∈ s.hbm.stale)) ∧
          (s.hbm.chan (i / 50331648) (par % 32) = .ok → (s.hbm.missing i).length ≤ 1 → par ∉ t.hbm.crcBad ∧ par ∉ t.hbm.stale) ∧
          (s.hbm.chan (i / 50331648) (par % 32) = .retraining → (s.hbm.missing i).length ≤ 1 → par ∈ t.hbm.stale))) ∧
    (∀ k ch, k < 8 → ch < 32 →
      let grp := fun c => c < 32 ∧ c / 16 = ch / 16
      let others := fun (t : State) => ∀ j c, c < 32 → ¬ (j = k ∧ c = ch) → t.hbm.chan j c = s.hbm.chan j c
      let stale := fun id => id % 32 = ch ∧ id / 32 / 50331648 = k
      let effect := fun (t : State) (n : Nat) =>
        sameMemory s t ∧ t.cores = s.cores ∧ t.parts = s.parts ∧ t.devevt.length = s.devevt.length + n ∧ 16 ∈ t.msi
      (s.hbm.chan k ch = .ok → (∀ c, grp c → s.hbm.chan k c ≠ .retraining) →
        (∀ id ∈ s.hbm.stale, id / 32 / 50331648 = k → ¬ grp (id % 32)) →
        ∃ t, exec (.retrainBegin k ch) s = .next t ∧ t.hbm.chan k ch = .retraining ∧ others t ∧ effect t 1) ∧
      (s.hbm.chan k ch = .ok → (∃ c, grp c ∧ (s.hbm.chan k c = .retraining ∨ ∃ id ∈ s.hbm.stale, id / 32 / 50331648 = k ∧ id % 32 = c)) →
        exec (.retrainBegin k ch) s = .next s) ∧
      (s.hbm.chan k ch = .retraining →
        (∃ t, exec (.retrainEnd k ch true) s = .next t ∧ t.hbm.chan k ch = .ok ∧ others t ∧ effect t 1) ∧
        (∃ t, exec (.retrainEnd k ch false) s = .next t ∧ t.hbm.chan k ch = .failed ∧ others t ∧ effect t 2)) ∧
      (s.hbm.chan k ch = .ok → (∃ id ∈ s.hbm.stale, stale id) → (∀ id ∈ s.hbm.stale, stale id → (s.hbm.missing (id / 32)).length ≤ 1) →
        ∃ t, exec (.rebuilt k ch) s = .next t ∧ (∀ id, id ∈ t.hbm.stale ↔ id ∈ s.hbm.stale ∧ ¬ stale id) ∧ effect t 1))

/-- A record of 128 bytes as admission reads it, and the state of the task it makes (R168, R170, R171). -/
def admittedAs (q : Part) (l : List Byte) (tcb pri : Nat) : TaskSt :=
  if (Launch.of l).malformed tcb pri q.cown then .rejected
  else if fieldLE l 0x1C 4 ≠ 0 then .waiting
  else if (fieldLE l 0x18 4).testBit 16 then .cancelled else .ready

/-- R167, R170 to R173, R176, R307: admission takes the record at the head of the one queue that holds any and makes a task of it with the
record's fields; a READY head that fits starts on its rectangle with the registers of R173, and once it has been bypassed
8 times no other task starts before it; one that fits nowhere reserves the origin that a pre-emption accepts and requests the stop of every
core of the tasks there; a task that has run for its budget is reported once. That PC is ENTRY[47:0], with the bits above ignored, is the
model's choice (log 47), and which reserved bits of a record make it malformed its reading (log 17). -/
def Obligations.SchedulerEvents : Prop :=
  ∀ (s : State) (n : BitVec 4),
    let q := s.part n
    let entry := fun (t : State) (tcb : Word) => (t.part n).task tcb
    (∀ (j : Fin 4) (l : List Byte),
      let m := q.queueSize
      let k := q.qbase[j].toNat + 8 * (q.qhead[j] % m)
      let tcb := littleEndian s k 8
      let s1 := s.setPart n { q with qhead := q.qhead.set j ((q.qhead[j] + 1) % m) }
      q.admits = true → (∀ i : Fin 4, i ≠ j → q.qhead[i] % m = q.qtail[i] % m) → q.qhead[j] % m ≠ q.qtail[j] % m → s.clean k 8 →
      (∀ a ∈ run k 8, a < Config.hbmBytes ∧ s.lentOut a = false) → s.deviceGoes →
      s1.devRead n tcb 128 = .ok l → (∀ u ∈ q.tasks, u.tcb ≠ BitVec.ofNat 64 tcb) →
      ∃ t u, exec (.admission n) s = .next t ∧ (t.part n).tasks = q.tasks ++ [u] ∧ u.tcb = BitVec.ofNat 64 tcb ∧
        u.st = admittedAs q l tcb j ∧ u.prio = BitVec.ofNat 2 (fieldLE l 0x10 4 / 2 ^ 20) ∧ u.entry.toNat = fieldLE l 0 8 ∧
        u.args.toNat = fieldLE l 8 8 ∧ u.needs.toNat = fieldLE l 0x30 8 ∧ u.budget = fieldLE l 0x14 4 ∧
        (t.part n).qhead[j] = (q.qhead[j] + 1) % m ∧ ((t.part n).frz = true ↔ u.st = .rejected)) ∧
    ((∀ i : Fin 4, q.qhead[i] % q.queueSize = q.qtail[i] % q.queueSize) → exec (.admission n) s = .next s) ∧
    (∀ h rest o, q.en = true → q.frz = false → s.released = true → s.colo.mwBusy = false → (∀ u ∈ q.tasks, u.claim = none) → q.readyOrder = h :: rest →
      s.deviceGoes → s.fit n h = some o → wbits h.spimg 55 48 = 0 →
      ∃ t, exec (.taskStart n) s = .next t ∧ t.started = true ∧
        (∃ u, entry t h.tcb = some u ∧ u.st = .running ∧ u.x = o.1 ∧ u.y = o.2 ∧ u.claim = none) ∧
        ∀ p ∈ rectCores o.1 o.2 h.lw h.lh, (t.core p).phase = .running ∧ (t.core p).ctx = { Ctx.reset with
            pc := h.entry.setWidth 48, args := h.args, tcb := h.tcb, tvec := q.tvecp } ∧
          (t.core p).seat = ⟨n, h.tcb, p % 40 - o.1, p / 40 - o.2, h.lw, h.lh, h.prio, h.needs⟩) ∧
    (∀ h rest, q.readyOrder = h :: rest → h.claim = none → s.fit n h = none → 8 ≤ h.bypass → (q.tasks.map Task.tcb).Nodup →
      exec (.taskStart n) s = .next s ∨ (exec (.taskStart n) s = .next (s.readShapes n h.tcb) ∧ ∃ p, (s.core p).shadow.st = .loaded)) ∧
    (∀ h rest o, q.en = true → q.frz = false → q.readyOrder = h :: rest → h.claim = none → s.fit n h = none → s.preemptAt n h = some o →
      (q.tasks.map Task.tcb).Nodup → s.silent → s.deviceGoes → ∃ t, exec (.preemption n) s = .next t ∧ entry t h.tcb = some { h with claim := some o } ∧ sameMemory s t ∧
        (∀ p ∈ rectCores o.1 o.2 h.lw h.lh, ∀ v, s.soleTask n p = some v → v.st = .running → ∀ r ∈ v.cores, (t.core r).prqSched = true) ∧
        ∀ p, t.core p = s.core p ∨ t.core p = { s.core p with prqSched := true }) ∧
    (∀ u tcb, entry s tcb = some u → u.budget ≠ 0 → u.hung = false → u.budget * 4000 ≤ u.ran →
      ∃ t, exec (.hang n tcb) s = .next t ∧ entry t tcb = some { u with hung := true }) ∧
    (∀ u tcb, entry s tcb = some u → u.budget = 0 ∨ u.hung = true ∨ u.ran < u.budget * 4000 → exec (.hang n tcb) s = .next s)

/-- The 16 bytes of a completion entry (R340) at key `k`, posted at TIME `ts`. -/
def entryStands (t : State) (k : Nat) (e : CqEntry) (ts : Nat) : Prop :=
  littleEndian t k 8 = e.subj.toNat ∧ littleEndian t (k + 8) 8 =
    e.st.toNat + e.kind.toNat * 2 ^ 4 + (if e.recfail then 2 ^ 8 else 0) + e.cause.toNat * 2 ^ 9 + ts % 2 ^ 48 * 2 ^ 16

/-- R170, R174, R339 to R341: a task whose cores have all halted, and one in a final state, retires: it is gone from its partition, its cores hold no
context, and its entry is posted; with a full ring it waits. No access of the device's own has to wait there (R197, R200). The oldest waiting entry is written at
CQHEAD once the ring has room and its home need not wait; one that its home cannot take is posted with its bytes unwritten (log 49). -/
def Obligations.RetirementEvents : Prop :=
  ∀ (s : State) (n : BitVec 4),
    let q := s.part n
    (∀ u tcb, q.task tcb = some u → u.st.final = true ∨ (u.st = .running ∧ s.allHalted u = true) →
      (q.cqEn = true → q.cqFull = true ∨ q.cqWait ≠ [] → exec (.retirement n tcb) s = .next s) ∧
      (q.cqEn = true → q.cqFull = false → q.cqWait = [] → s.deviceGoes →
        ∃ t, exec (.retirement n tcb) s = .next t ∧ (∀ v ∈ (t.part n).tasks, v.tcb ≠ tcb) ∧ (t.part n).cqHead = q.cqHead + 1 ∧
          (u.st = .running → ∀ p ∈ u.cores, (t.core p).phase = .free)) ∧
      (q.cqEn = false → s.deviceGoes → ∃ t, exec (.retirement n tcb) s = .next t ∧ (∀ v ∈ (t.part n).tasks, v.tcb ≠ tcb) ∧ (t.part n).cqHead = q.cqHead ∧
        (u.st = .running → ∀ p ∈ u.cores, (t.core p).phase = .free))) ∧
    (∀ e w, q.cqWait = e :: w → q.cqEn = true →
      let k := q.cqBase.toNat + 16 * (q.cqHead % q.cqSize)
      (q.cqFull = true → exec (.completionEntry n) s = .next s) ∧
      (q.cqFull = false → s.ringRefused (run k 16) = false → s.writeWaits (run k 16) = true → exec (.completionEntry n) s = .next s) ∧
      (q.cqFull = false → s.ringRefused (run k 16) = true ∨ s.writeWaits (run k 16) = false →
        ∃ t, exec (.completionEntry n) s = .next t ∧ (t.part n).cqWait = w ∧ (t.part n).cqHead = q.cqHead + 1 ∧
          (q.cqIen = true → n.toNat ∈ t.msi) ∧
          (s.ringRefused (run k 16) = true → sameMemory s t) ∧
          (s.ringRefused (run k 16) = false → s.writeErr (run k 16) = none → s.hbm.rebuilt (run k 16) = [] → sameOutside s t k 16 ∧
            (Memory.wf s.mem = true → entryStands t k e s.time[0]))))

/-- What the store queue of a context holds, but for the places, which follow the rectangle (R317). -/
def queued (x : Ctx) : List (Nat × BitVec 4 × Bool × List (Word × Nat × Word)) :=
  x.sq.map fun e => (e.seq, e.cls, e.ready, e.pieces.map fun q => (q.va, q.n, q.data))

/-- The parts of a context that a swap carries over as they are (R311, R312). -/
def sameContext (x y : Ctx) : Prop :=
  y.g = x.g ∧ y.p = x.p ∧ y.pc = x.pc ∧ y.mode = x.mode ∧ y.spill = x.spill ∧ y.loops = x.loops ∧ y.args = x.args ∧ y.tcb = x.tcb ∧
  y.warn = x.warn ∧ y.vufl = x.vufl ∧ y.tcause = x.tcause ∧ y.tpc = x.tpc ∧ y.tvec = x.tvec ∧ y.tsave = x.tsave ∧ y.tok = x.tok ∧
  y.bars = x.bars ∧ y.fslots = x.fslots ∧ queued y = queued x ∧ y.vu.v = x.vu.v ∧ y.vu.k = x.vu.k ∧ y.me = x.me ∧ y.ctab = x.ctab ∧
  y.ceid = x.ceid ∧ y.mp = x.mp

/-- R311 to R316: a stopped core swaps its context into the shadow, which is then HELD, and its task is SUSPENDED with the last core; the
contexts of a SUSPENDED task swap back together onto cores that its partition owns; STATE 0 empties a shadow, STATE 2 marks it LOADED in the plain view; a sealing advances SEQ
and its copy begins with the header of the sealed view. An event that cannot occur leaves the state as it is, in the model's own
form (log 3). The counter of the free values and the bookkeeping of a sealing are the model's own (logs 5, 15). -/
def Obligations.ContextEvents : Prop :=
  ∀ (s : State) (p : Nat),
    let c := s.core p
    let h := c.shadow
    (∀ u, (s.part c.seat.part).task c.seat.tcb = some u →
      (s.swapReady p = false ∨ s.allStopped c.seat.part u = false → exec (.swap p) s = .next s) ∧
      (s.swapReady p = true → s.allStopped c.seat.part u = true → s.deviceGoes → ∃ t y, exec (.swap p) s = .next t ∧ (t.core p).shadow.st = .held ∧
        (t.core p).shadow.ctx = some y ∧ sameContext c.ctx y ∧ (t.core p).shadow.seat = c.seat ∧ (t.core p).shadow.phase = c.phase ∧
        (t.core p).phase = .free ∧ (t.core p).acc = c.acc ∧ (∀ r, r ≠ p → (t.core r).ctx = (s.core r).ctx) ∧
        ((∀ r ∈ u.cores, r ≠ p → (s.core r).holds c.seat.part u.tcb = true) →
          ∃ v, (t.part c.seat.part).task c.seat.tcb = some v ∧ v.st = .suspended))) ∧
    (∀ (n : BitVec 4) (u : Task) (tcb : Word), (s.part n).task tcb = some u → u.st = .suspended → u.cores.Nodup → s.allHeld n u = true →
      s.deviceGoes → (∀ r ∈ u.cores, r ∈ (s.part n).cown) → (∀ r, (s.core r).shadow.st ≠ .loaded) →
      (∀ r ∈ u.cores, (s.core r).phase = .free ∧ Bad.shadow ∉ (s.core r).bad ∧ (s.core r).shadow.wrote = [] ∧ r ∉ s.heldBack n tcb) →
      ∃ t, exec (.taskResume n tcb) s = .next t ∧ (∃ v, (t.part n).task tcb = some v ∧ v.st = .running) ∧
        ∀ r ∈ u.cores, ∀ x, (s.core r).shadow.ctx = some x → (t.core r).phase = (s.core r).shadow.phase ∧ (t.core r).shadow.st = .empty ∧
          (x.refilling = false → sameContext x (t.core r).ctx)) ∧
    (p < 640 →
      (∃ t, exec (.ctxctlEmpty p) s = .next t ∧ t.core p = { c with shadow := h.emptied, bad := c.bad.filter (· != .shadow) } ∧
        sameMemory s t ∧ ∀ r, r ≠ p → t.core r = s.core r) ∧
      (h.sealView = false → ∃ t, exec (.ctxctlLoaded p) s = .next t ∧ (t.core p).shadow.st = .loaded ∧
        t = s.setCore p { c with shadow := (t.core p).shadow } ∧ (t.core p).shadow.ctx = h.ctx ∧ (t.core p).shadow.wrote = h.wrote) ∧
      (∀ x, h.sealView = true → h.st = .held → h.ctx = some x → ∃ t, exec (.sealing p) s = .next t ∧ t.seals = s.seals + 1 ∧
        (t.core p).ctx = c.ctx ∧ sameMemory s t ∧
        let l := (t.core p).shadow.sealedImage
        fieldLE l 0 4 = 0x4C53524B ∧ fieldLE l 4 4 = h.seat.part.toNat ∧
          fieldLE l 8 8 = s.colo.bootcnt.toNat * 2 ^ 32 + (s.seals + 1) % 2 ^ 32) ∧
      (h.sealView = false ∨ h.st ≠ .held → exec (.sealing p) s = .next s))

/-! ### Debug, partition and trace registers -/

/-- R308, R329 to R331: CLAIM, HALTREQ, the debug stop, RESUME and PRQ. With the debug port closed the three commands do nothing but carry
TIME (R319), which is free (log 5). An event that cannot occur leaves the state as it is, in the model's own form (log 3). That a HALTREQ
without CLAIM does nothing is the model's reading (log 18), and that PRQ.REQ written on an idle core stays 0 its choice (log 20). -/
def Obligations.DebugEvents : Prop :=
  ∀ (s : State) (p : Nat), p < 640 →
    let c := s.core p
    let only := fun (u t : State) (d : Core) => t.core p = d ∧ t = { u with cores := t.cores } ∧ ∀ r, r ≠ p → t.core r = s.core r
    let hosts := fun (i : Instr) (d : Core) => ∃ u t, s.hears u ∧ exec i s = .next t ∧ only u t d
    (s.portOpen p = false → ∀ i ∈ [Instr.claim p true, .claim p false, .haltreq p, .resume p], ∃ u, s.hears u ∧ exec i s = .next u) ∧
    (s.portOpen p = true →
      hosts (.claim p true) { c with dbg := { c.dbg with claim := true } } ∧
      (c.dbg.stopped = false → c.dbg.heldTok = [] → c.dbg.heldMp = [] →
        hosts (.claim p false) { c with dbg := { c.dbg with claim := false, want := none, armed := false } }) ∧
      hosts (.haltreq p) (if c.dbg.claim = true ∧ c.dbg.stopped = false ∧ c.dbg.want = none
        then { c with dbg := { c.dbg with want := some (1, 0), atIter := false } } else c) ∧
      (c.dbg.stopped = false → ∃ u, s.hears u ∧ exec (.resume p) s = .next u) ∧
      (s.silent → c.dbg.stopped = true → c.dbg.heldTok = [] → c.dbg.heldMp = [] → hosts (.resume p)
        { c with stalled := false, dbg := { c.dbg with stopped := false, want := none, armed := c.dbg.step && c.dbg.claim, atIter := false } })) ∧
    (∀ r w, s.silent → c.dbg.want = some (r, w) → c.dbg.stopped = false → (c.dbg.atIter = true ∨ c.ctx.pipelined = false) →
      c.phase = .running → c.trap = none → c.preempt = false →
      ((c.sys = false ∧ c.ctx.vu.queue ≠ []) ∨ (∃ q, ∃ k ∈ (c.ctx.eng q).run, k.st = .running) → exec (.debugStop p) s = .next s) ∧
      (c.sys = true ∨ c.ctx.vu.queue = [] → (∀ q, ∀ k ∈ (c.ctx.eng q).run, k.st ≠ .running) → ∃ t, exec (.debugStop p) s = .next t ∧
        only { s with free := s.free + 1 } t { c with
          ctx := c.ctx.writeBack
          dbg := { c.dbg with stopped := true, reason := r, which := w, want := none, armed := false, serial := s.free } })) ∧
    (∀ v, ∃ t, exec (.prqReq p v) s = .next t ∧
      only s t { c with prqReq := v.getLsbD 0 && decide (c.phase = .running ∨ c.phase = .halting) })

/-- R166: what a write of a COWN register does to core `p`, whose bit the write sets or clears: it assigns a core that no partition owns, with
its scratchpad cleared (R165); it withdraws a release that has not taken effect; it releases an idle core at once, and one that runs or holds
tasks once they have retired (log 50). -/
def cownBitDone (s t : State) (n : BitVec 4) (p : Nat) (bit : Bool) : Prop :=
  let q := s.part n
  let r := t.part n
  let done := fun (e : Nat × List Word) => s.busyCore p = false ∧ ∀ tcb ∈ e.2, q.task tcb = none
  let pending := ∃ e ∈ q.releasing, e.1 = p
  (bit = true → s.ownerOf p = none → p ∈ r.cown ∧ ∀ o < 2 ^ 20, Memory.get t.mem (spadKey p o) = 0) ∧
  (bit = true → p ∈ q.cown → (∀ e ∈ q.releasing, e.1 = p → ¬ done e) → p ∈ r.cown ∧ ∀ e ∈ r.releasing, e.1 ≠ p) ∧
  (bit = false → p ∈ q.cown → (¬ pending ∧ s.busyCore p = false) ∨ (∃ e ∈ q.releasing, e.1 = p ∧ done e) → p ∉ r.cown) ∧
  (bit = false → p ∈ q.cown → s.busyCore p = true → p ∈ r.cown ∧ (∃ e ∈ r.releasing, e.1 = p) ∧
    (¬ pending → (p, s.tasksAt p) ∈ r.releasing))

/-- R166, R175, R185, R292, R335, R337 to R339: the writes of partition registers, CQTAIL and DEVEVT by the host, PCTL.CLR, and a register
write by the host at TVECP; a write that is not aligned, one of another size than 8 bytes, and one outside the blocks, has no effect and is
answered with Unsupported Request, whose code 0xFF is the model's own (log 48). What the host sends carries TIME, which is free where the event
does not give it (logs 5, 44). An event that cannot occur leaves the state as it is, in the model's own form (log 3). That a core's memories
are wiped when COWN assigns it is the model's reading (log 16). That EN of PLCTL takes no 1 while a command wipe runs, the term mwBusy of its
clause, is the model's choice (log 48). -/
def Obligations.PartitionEvents : Prop :=
  ∀ (s : State) (n : BitVec 4) (v : Word),
    let q := s.part n
    let sets := fun (i : Instr) (q' : Part) => exec i s = .next (s.setPart n q')
    sets (.frzThaw n) { q with frz := false } ∧ sets (.tlbinvGo n) { q with tlbGo := true } ∧
    (q.tlbGo = true → sets (.invalidationComplete n)
      { q with tlb := [], tlbGo := false, rootNow := q.ptroot, banks0 := q.sbmask0, banks1 := q.sbmask1 }) ∧
    (q.tlbGo = false → exec (.invalidationComplete n) s = .next s) ∧
    (q.cqEn = true → exec (.cqEnable n) s = .next s) ∧
    (q.cqEn = false → sets (.cqEnable n) { q with cqEn := true, cqHead := 0, cqTail := 0, cqDrop := 0 }) ∧
    (∃ u t, s.hears u ∧ exec (.cqtailWrite n v) s = .next t ∧ t.part n = { q with cqTail := min v.toNat q.cqHead } ∧ n.toNat ∉ t.msi ∧
      t = { u with parts := t.parts, msi := t.msi } ∧ ∀ i : BitVec 4, i ≠ n → t.part i = s.part i) ∧
    (∃ u t, s.hears u ∧ exec .devevtRead s = .next t ∧ t.devevt = s.devevt.tail ∧ 16 ∉ t.msi ∧
      t.replies = s.replies ++ [⟨0, false, leBytes 8 (s.devevt.headD 0).toNat⟩] ∧ t = { u with devevt := t.devevt, msi := t.msi, replies := t.replies }) ∧
    (∀ p < 640, ∃ f : Prof, exec (.pctlClr p) s = .next (s.setCore p { s.core p with prof := f }) ∧ f.en = (s.core p).prof.en ∧
      (∀ j : Fin 28, f.cls[j] = 0) ∧ (∀ j : Fin 63, f.tok[j] = 0) ∧ (∀ j : Fin 96, f.bar[j] = 0) ∧ ∀ j : Fin 32, f.wmk[j] = 0) ∧
    (∀ (m : HostAddr), ∃ u, s.heard u m.sent ∧
      let va := m.addr
      (va.toNat % 8 ≠ 0 ∨ m.size ≠ 8 ∨ va.toNat < 0xFFFF00010000 ∨ 0xFFFFC0000000 ≤ va.toNat →
        exec (.registerWrite m v) s = .next { u with replies := s.replies ++ [⟨0xFF, false, []⟩] }) ∧
      (va.toNat = 0xFFFF00010120 + n.toNat * 0x1000 → m.size = 8 →
        exec (.registerWrite m v) s = .next (u.setPart n { q with tvecp := v &&& 0xFFFFFFFFFFFC })) ∧
      (va.toNat = 0xFFFF00010080 + n.toNat * 0x1000 → m.size = 8 → exec (.registerWrite m v) s = .next (u.setPart n { q with
        en := v.getLsbD 0 && (q.en || !s.colo.mwBusy), frz := q.frz && !v.getLsbD 1 }))) ∧
    (∀ k < 10, ∃ t, exec (.cownWrite n k v) s = .next t ∧ (∀ p, (t.core p).ctx = (s.core p).ctx) ∧
      ∀ i < 64, cownBitDone s t n (64 * k + i) (v.getLsbD i))

/-- R318, R320 to R326: enabling a sink clears its counters and writes SYNC at record 0; a SYNC that the wrap of TIME[39:0] left is written with
the TIME of the wrap, after the DROP of what was lost; SAMPLE of a running core's word; DROP reports the lost records once there is room; a
unit with room in its buffer stands no longer and records for how long it stood. The writes are stated for a ring whose home takes them, and
for a partition's sink while the system sink, which receives every record, is off. A write carries TIME to the home of the ring and back (R336),
so that TIME may move, and with it what the sinks owe. An event that cannot occur leaves the state as it is, in the model's own form
(log 3). The spec does not state SRC of SYNC and DROP records, nor their PART in the system sink (log 46). -/
def Obligations.TraceEvents : Prop :=
  ∀ (s : State) (i : Nat),
    (∀ h : i < 17,
      let k := s.sinks[i]'h
      let place := fun n => k.base.toNat + 16 * (n % 2 ^ k.log)
      let free := fun n => s.ringRefused (run (place n) 16) = false ∧ s.writable (place n) 16 ∧ (i = 16 ∨ s.sinks[16].en = false)
      let room := fun n => k.wait = [] ∧ k.head + n - k.tail ≤ 2 ^ k.log
      let holds := fun (t : State) n (stamp : Nat → Nat) evt (pay : Nat → Nat) => Memory.wf s.mem = true →
        ∃ part < 16, ∃ src < 1024, (i ≠ 16 → part = i) ∧ littleEndian t (place n) 16 =
          stamp src % 2 ^ 48 * 2 ^ 80 + part * 2 ^ 76 + src * 2 ^ 66 + 6 * 2 ^ 63 + evt * 2 ^ 56 + 7 * 2 ^ 37 + pay src
      let owes := fun (t : State) (a b : Sink) => ∃ l, a = { b with sync := b.sync ++ l } ∧ ((∀ d : Fin 2, t.time[d] = s.time[d]) → l = [])
      let becomes := fun (t : State) (k' : Sink) => owes t (t.sinks[i]'h) k' ∧ t.cores = s.cores ∧
        ∀ j : Fin 17, j.val ≠ i → owes t t.sinks[j] s.sinks[j]
      let sync := fun (t : State) n ts => holds t n (fun _ => ts) 0 (fun _ => ts / 2 ^ 48 % 2 ^ 16)
      let drop := fun (t : State) n => holds t n s.tsOf 0x30 (fun _ => k.lost % 2 ^ 37)
      (k.en = true → exec (.sinkEnable i) s = .next s) ∧
      (k.en = false → free 0 → ∃ t, exec (.sinkEnable i) s = .next t ∧
        becomes t { k with ctl := k.ctl ||| 1, head := 1, tail := 0, drop := 0, lost := 0, wait := [], sync := [] } ∧
        sameOutside s t (place 0) 16 ∧ holds t 0 s.tsOf 0 (fun src => s.tsOf src / 2 ^ 48 % 2 ^ 16)) ∧
      (∀ ts, k.en = true → k.sync = [ts] → k.lost = 0 → room 1 → free k.head →
        ∃ t, exec (.sync i) s = .next t ∧ becomes t { k with head := k.head + 1, sync := [] } ∧ sameOutside s t (place k.head) 16 ∧
          sync t k.head ts) ∧
      (∀ ts, k.en = true → k.sync = [ts] → 0 < k.lost → room 2 → free k.head → free (k.head + 1) →
        (∀ d e : Fin 2, s.time[d] / 2 ^ 40 = (s.time[e] + 8) / 2 ^ 40) →
        ∃ t, exec (.sync i) s = .next t ∧ (t.sinks[i]'h).head = k.head + 2 ∧ (t.sinks[i]'h).lost = 0 ∧ drop t k.head ∧ sync t (k.head + 1) ts) ∧
      (k.en = false ∨ (k.sync = [] ∧ k.lost = 0) → exec (.sync i) s = .next s) ∧
      (k.en = true → 0 < k.lost → room 1 → free k.head →
        ∃ t, exec (.drop i) s = .next t ∧ becomes t { k with head := k.head + 1, lost := 0 } ∧ sameOutside s t (place k.head) 16 ∧
          drop t k.head) ∧
      (k.en = false ∨ k.lost = 0 ∨ 2 ^ k.log ≤ k.head - k.tail → exec (.drop i) s = .next s)) ∧
    (∀ p,
      let c := s.core p
      (c.phase ≠ .running → exec (.sample p) s = .next s) ∧
      (c.phase = .running → c.ctx.order = [] → exec (.sample p) s =
        .next (s.emit (some p) c.seat.part p .sq 2 LoopTag.none (c.ctx.pc.toNat / 4 % 2 ^ 37))) ∧
      (∀ u k, (∀ e ∈ c.tstall, e.1 ≠ u) ∨ 8 ≤ (c.tbuf.filter (·.1 == u)).length → exec (.stall p u k) s = .next s) ∧
      (∀ u t0, c.tstall.find? (·.1 == u) = some (u, t0) → (c.tbuf.filter (·.1 == u)).length < 8 → c.ctx.order = [] → p < 640 →
        let k := (if p % 40 < 20 then s.time[0] else s.time[1]) - t0
        (∀ n ≠ k, exec (.stall p u n) s = .next s) ∧ exec (.stall p u k) s = .next ((s.setCore p { c with tstall := c.tstall.filter (·.1 != u), ctx := c.ctx.restart u }).emit
          (some p) c.seat.part p u 0x31 LoopTag.none (min k (2 ^ 37 - 1)))))

/-! ### Leases, peers and the host -/

/-- R346, R347: the commands of a lease entry and the messages of its peer, each from the states it is allowed in, with REASON 5 and 6 where it is
not; the deadlines; and the wipe of a lender's memory. A command or message carries TIME (R319), and the borrower takes the lender's
TIME to be at most 16 ticks ahead of its own, the model's reading (log 22). An event that cannot occur leaves the state as it is, in the model's own
form (log 3). What a peer answers is an input of the event (log 5). -/
def Obligations.LeaseEvents : Prop :=
  ∀ (s : State) (e : Nat), e < 64 →
    let l := s.lease e
    let grace := if l.grace = 0 then 100 else if l.grace.toNat < 10 then 10 else l.grace.toNat
    let becomes := fun (i : Instr) (l' : Lease) => ∃ t, exec i s = .next t ∧ t.lease e = l' ∧ ∀ p, (t.core p).ctx = (s.core p).ctx
    let commands := [(Instr.offer e, l.role = false ∧ l.st = 0), (.accept e (.ours 0), l.role = true ∧ l.st = 0),
      (.revoke e (.ours 0), l.role = false ∧ (l.st = 1 ∨ l.st = 2)), (.release e (.ours 0), l.role = true ∧ (l.st = 2 ∨ l.st = 3)),
      (.clear e, l.st = 4 ∧ (l.role = true ∨ l.wiping = false))]
    (4 ≤ s.leaseWaits e → ∀ c ∈ commands, ∃ u, s.hears u ∧ exec c.1 s = .next (u.setLease e { l with reason := 6 })) ∧
    (s.leaseWaits e < 4 →
      (∀ c ∈ commands, ¬ c.2 → ∃ u, s.hears u ∧ exec c.1 s = .next (u.setLease e { l with reason := 5 })) ∧
      (l.role = false → l.st = 0 → l.base.toNat + 2 ^ 31 ≤ Config.hbmBytes → becomes (.offer e) { l with st := 1, deadline := BitVec.allOnes 64 }) ∧
      (l.role = false → l.st = 0 → Config.hbmBytes < l.base.toNat + 2 ^ 31 → becomes (.offer e) { l with reason := 1 }) ∧
      (l.role = true → l.st = 0 → becomes (.accept e (.ours 0)) { l with st := 2, deadline := BitVec.allOnes 64 } ∧
        ∀ r, r ≠ 0 → becomes (.accept e (.ours r)) { l with reason := r }) ∧
      (l.role = false → l.st = 1 ∨ l.st = 2 → ∃ u, s.hears u ∧ becomes (.revoke e (.ours 0))
        { l with st := 3, deadline := BitVec.ofNat 64 (u.time[0] + 4000000 * grace) }) ∧
      (l.role = true → l.st = 2 ∨ l.st = 3 → becomes (.release e (.ours 0)) { l with st := 4 }) ∧
      (l.st = 4 → l.role = true ∨ l.wiping = false → becomes (.clear e) { l with st := 0, deadline := 0 })) ∧
    (∀ d k, (l.role = false → l.st = 1 → becomes (.accept e (.peers l.peer d true)) { l with st := 2 }) ∧
      (l.role = true → l.st = 2 → becomes (.revoke e (.peers l.peer d k)) { l with st := 3, deadline := d }) ∧
      (l.role = false → l.st = 2 ∨ l.st = 3 → becomes (.release e (.peers l.peer d k)) { l with st := 4, wiping := true })) ∧
    (l.st = 3 → l.role = false →
      (l.deadline.toNat ≤ s.time[0] → becomes (.deadline e) { l with st := 4, wiping := true }) ∧
      (s.time[0] < l.deadline.toNat → exec (.deadline e) s = .next s)) ∧
    (l.st = 3 → l.role = true → (l.deadline.toNat ≤ s.time[0] + 16 → becomes (.deadline e) { l with st := 4 }) ∧
      (s.time[0] + 16 < l.deadline.toNat → exec (.deadline e) s = .next s)) ∧
    (l.st ≠ 3 → exec (.deadline e) s = .next s) ∧
    (l.wiping = true → ∃ t, exec (.lenderWipeComplete e) s = .next t ∧ t.lease e = { l with wiping := false } ∧
      sameOutside s t l.base.toNat (2 ^ 31) ∧ ∀ a, l.base.toNat ≤ a → a < l.base.toNat + 2 ^ 31 → Memory.get t.mem a = 0) ∧
    (l.wiping = false → exec (.lenderWipeComplete e) s = .next s)

/-- R337, R342, R343, R348: reads of error-free memory through the export map, a lease and the host's view answer with the bytes; what the
maps do not grant is refused with its cause; a host write puts its bytes into HBM, and no other byte changes; one to a lent-out unit has no
effect; a write shorter than 4 or longer than 256 bytes and a 4-byte atomic addition, which the package's list of options has not, are discarded and
counted at a port, which is free (logs 5, 57); a read past the last entry of the map names no place, with XMISS, the model's choice (log 60). A message moves TIME to at least its sender's plus one, and the access carries it to the home
and back (R319, R336). The replies are the model's own list of what the outside receives, a host access outside HBM has no effect (log
44), and an export map beyond HBM holds no entry (log 49). -/
def Obligations.FabricEvents : Prop :=
  ∀ (s : State),
    let answers := fun (i : Instr) (sent : Nat) (cause : BitVec 8) (bytes : List Byte) =>
      ∃ u w, s.heard u sent ∧ u.timed w ∧ exec i s = .next { w with replies := s.replies ++ [⟨cause, false, bytes⟩] }
    (∀ (va : Word) (r : BitVec 4) (n sent key : Nat),
      let k := s.exbase.toNat / 2 ^ 13 % 2 ^ 26 * 8192 + 8 * (va.toNat / 2 ^ 26 % 2 ^ 10)
      let x := Export.of (BitVec.ofNat 64 (littleEndian s k 8))
      let i := Instr.exportAccess va r (.read n) sent
      (2 ^ 26 < va.toNat % 2 ^ 26 + n → va.toNat / 2 ^ 26 % 2 ^ 10 = 1023 → answers i sent 4 []) ∧
      (va.toNat % 2 ^ 26 + n ≤ 2 ^ 26 → (s.exbase.getLsbD 0 = false ∨ Config.hbmBytes < k + 8 → answers i sent 4 []) ∧
      (s.exbase.getLsbD 0 = true → k + 8 ≤ Config.hbmBytes →
        (s.lentOut k = true → answers i sent 5 []) ∧
        (s.lentOut k = false → s.clean k 8 →
          (x.v = false ∨ x.bad = true → answers i sent 4 []) ∧
          (x.v = true → x.bad = false → x.rd = false ∨ x.rpart ≠ r → answers i sent 5 []) ∧
          (x.v = true → x.bad = false → x.rd = true → x.rpart = r → x.tgt = 0 → x.type = 0 →
            key = x.addr * 2 ^ 26 + va.toNat % 2 ^ 26 →
            ((∃ b ∈ run key n, s.lentOut b = true) → answers i sent 5 []) ∧
            ((∀ b ∈ run key n, s.lentOut b = false) → s.clean key n → answers i sent 0 (Memory.gets s.mem key n))))))) ∧
    (∀ e off n sent, e < 64 →
      let l := s.lease e
      let i := Instr.leaseAccess e off (.read n) sent
      let now := if s.tripped then s.time[0] else max s.time[0] (sent + 1)
      let live := l.role = false ∧ (l.st = 2 ∨ l.st = 3) ∧ now < l.deadline.toNat ∧ off + n ≤ 2 ^ 31
      (¬ live → answers i sent 0x0B []) ∧
      (live → s.clean (l.base.toNat + off) n → answers i sent 0 (Memory.gets s.mem (l.base.toNat + off) n))) ∧
    (∀ (va : Word) (r : BitVec 4) (e off : Nat) (req : PeerReq) (sent : Nat),
      (∃ l : List Byte, req = .write l ∧ (l.length < 4 ∨ 256 < l.length)) ∨ (∃ fp x, req = .vadd fp x) →
      ∀ i ∈ [Instr.exportAccess va r req sent, .leaseAccess e off req sent], ∃ u t, s.heard u sent ∧ exec i s = .next t ∧
        t = { u with free := s.free + 1, portErrs := t.portErrs } ∧
        ∃ j : Fin 16, t.portErrs[j] = s.portErrs[j] + 1 ∧ ∀ h : Fin 16, h ≠ j → t.portErrs[h] = s.portErrs[h]) ∧
    (∀ (m : HostAddr) n,
      let pa := m.addr.toNat
      (Config.hbmBytes < pa + n → ∃ u, s.heard u m.sent ∧ exec (.hostMemRead m n) s = .next u) ∧
      (pa + n ≤ Config.hbmBytes → s.clean pa n →
        ((∃ a ∈ run pa n, s.lentOut a = true) → answers (.hostMemRead m n) m.sent 5 []) ∧
        ((∀ a ∈ run pa n, s.lentOut a = false) → answers (.hostMemRead m n) m.sent 0 (Memory.gets s.mem pa n)))) ∧
    (∀ (m : HostAddr) bytes,
      let pa := m.addr.toNat
      (Config.hbmBytes < pa + bytes.length ∨ (∃ a ∈ run pa bytes.length, s.lentOut a = true) →
        ∃ u, s.heard u m.sent ∧ exec (.hostMemWrite m bytes) s = .next u) ∧
      (pa + bytes.length ≤ Config.hbmBytes → s.writable pa bytes.length → (∀ a ∈ run pa bytes.length, s.lentOut a = false) →
        Memory.wf s.mem = true → ∃ t, exec (.hostMemWrite m bytes) s = .next t ∧ Memory.gets t.mem pa bytes.length = bytes ∧
          sameOutside s t pa bytes.length ∧ t.cores = s.cores ∧ t.parts = s.parts))

/-! ### Power, lifecycle and the colophon -/

/-- R352 to R355: a junction that reaches 110 °C trips the device, which sends its event, sets THERM.TRIP and stops every step that follows; the
governor slows the units down, with at least 1,024 units of budget in each stack; the compute domains are held once a junction reads below −25 °C, and released once the
firmware stands and, if they were held, every junction reads −20 °C or above; a device reset verifies the firmware image against its
fused hash, wipes every memory but the colophon's own and counts the boot. That the hash is SHA-512 of Qx and Qy, 144 bytes, is the model's
choice (logs 10, 48). An event that cannot occur leaves the state as it is, in the
model's own form (log 3). The readings are inputs, and what a device reset keeps is partly the model's choice (logs 23, 43). -/
def Obligations.PowerEvents : Prop :=
  ∀ (s : State),
    (∀ loc stack (temp : BitVec 12), temp.toInt < 110 → exec (.trip loc stack temp) s = .next s) ∧
    (∀ stack (temp : BitVec 12), exec (.trip 3 stack temp) s = .next s) ∧
    (∀ loc stack (temp : BitVec 12), loc ≠ 3 → 110 ≤ temp.toInt → ∃ t, exec (.trip loc stack temp) s = .next t ∧ t.tripped = true ∧ t.therm = true ∧ 16 ∈ t.msi ∧
      t = { s with tripped := true, therm := true, temp := temp, devevt := t.devevt, msi := t.msi } ∧
      (∃ w : Word, t.devevt = s.devevt ++ [w] ∧ w.toNat = 0x3F * 2 ^ 56 + 7 * 2 ^ 37 +
        (if loc = 2 then stack.toNat * 2 ^ 14 else 0) + loc.toNat * 2 ^ 12 + temp.toNat) ∧
      (s.agenda = [] → step t = .fault .clocksStopped)) ∧
    (∀ power (temp : BitVec 12) budget, 110 ≤ temp.toInt → ∃ t, exec (.governorSlowing power temp budget) s = .next t ∧ t.tripped = true ∧
      t.therm = true ∧ t.throt = true ∧ 16 ∈ t.msi) ∧
    (∀ power (temp : BitVec 12) budget, temp.toInt < 110 → ∃ t, exec (.governorSlowing power temp budget) s = .next t ∧ t.throt = true ∧ t.power = power ∧ t.temp = temp ∧
      (∀ i : Fin 8, 1024 ≤ t.hbm.capacity[i] ∧ t.hbm.budget[i] = min s.hbm.budget[i] t.hbm.capacity[i]) ∧
      t = { s with power := power, temp := temp, throt := true, hbm := t.hbm } ∧
      t.hbm = { s.hbm with budget := t.hbm.budget, capacity := t.hbm.capacity }) ∧
    (∀ c, c = s.coldest.toInt →
      let done := s.released = true ∨ s.colo.fwbad = true ∨ s.colo.lc = 6
      (done ∨ c < -25 ∨ (s.cold = true ∧ c < -20) → exec .computeRelease s = .next s) ∧
      (¬ done → -25 ≤ c → s.cold = false ∨ -20 ≤ c →
        exec .computeRelease s = .next { s with released := true, colo := { s.colo with ready := true } })) ∧
    (∀ power (temp coldest : BitVec 12) budget, s.devHeld = false → (∀ e ∈ s.cores, e.2.late = []) →
      ∃ t, s.act (.readings power temp coldest budget) = .next t ∧ t.coldest = coldest ∧ (110 ≤ temp.toInt → t.tripped = true) ∧
      (t.cold = true ↔ s.cold = true ∨ (s.released = false ∧ coldest.toInt < -25)) ∧ t.released = s.released ∧ t.power = power ∧ t.temp = temp) ∧
    (∀ image sig, ∃ t, exec (.deviceReset image sig) s = .next t ∧
      (∀ a, Memory.get t.mem a = if a < 2 ^ 50 then 0 else Memory.get s.mem a) ∧
      t.colo.bootcnt = s.colo.bootcnt + 1 ∧ t.colo.lc = s.colo.lc ∧ t.colo.dport = 0 ∧ t.released = false ∧ t.tripped = false ∧
      t.therm = false ∧ t.throt = false ∧ (t.cold = true ↔ s.coldest.toInt < -25) ∧ t.coldest = s.coldest ∧ t.power = 0 ∧ t.temp = 0 ∧ t.product = s.product ∧
      t.plim = (if s.product = .ma then 1400 else 1800) ∧ t.time = s.time ∧
      (∀ n, t.part n = Part.reset) ∧ (∀ p < 640, t.core p = Core.reset) ∧
      (t.colo.fwbad = false → sig.key.length = 144 ∧ sha512 sig.key = (List.range 64).map Config.fwHash) ∧
      t.colo.am[0] = (if t.colo.fwbad then List.replicate 64 0 else sha512 (List.replicate 64 0 ++ sha512 image)) ∧
      ((t.core 640).phase = .halted ↔ t.colo.fwbad = true ∨ s.colo.lc = 6))

/-- The lifecycle transitions of R356: 0 BLANK, 1 TEST, 2 DEV, 3 PROD, 4 PROD-DEBUG, 5 RMA, 6 END. -/
def lifecycleMay (a b : Nat) : Prop :=
  (a = 0 ∧ b = 1) ∨ (a = 1 ∧ (b = 2 ∨ b = 3 ∨ b = 6)) ∨ (a = 2 ∧ (b = 3 ∨ b = 6)) ∨ (a = 3 ∧ (b = 4 ∨ b = 5 ∨ b = 6)) ∨
  (a = 4 ∧ (b = 3 ∨ b = 5 ∨ b = 6)) ∨ (a = 5 ∧ b = 6)

/-- R356 to R364: the lifecycle request and the wipes; the hash, the verify engine, key wipe, measurement and random numbers; the debug port, which opens
only under the four conditions of R360; the unlock mailbox, which the host may write while DOOR bit 0 is 0; an SPDM request. An
event that cannot occur leaves the state as it is, in the model's own form (log 3). SHA-512 and the curve are presumed, random
numbers and SPDM answers are free, and the RNG event names its register (logs 5, 10, 31, 42). What the host sends carries a TIME that is free
(log 5), and the code 0xFF of Unsupported Request is the model's own. That measurement block 9 is the 8 bytes of the LC register is its
reading, and the layout of GET_MEASUREMENTS, 0xE0 and 0xFF, is presumed from DMTF SPDM 1.3 (log 48). -/
def Obligations.ColophonEvents : Prop :=
  ∀ (s : State) (v : Word),
    let c := s.colo
    let regs := fun (i : Instr) (d : Colo) => exec i s = .next { s with colo := d }
    let wiped := fun (t : State) => ∀ a, Memory.get t.mem a = if a < 2 ^ 50 then 0 else Memory.get s.mem a
    (lifecycleMay c.lc.toNat (v.toNat % 8) → ∃ t, exec (.lcreq v) s = .next t ∧ wiped t ∧ t.colo = { c with
      lc := v.setWidth 3, dport := 0, identity := if v.toNat % 8 = 1 then some s.free else c.identity }) ∧
    (¬ lifecycleMay c.lc.toNat (v.toNat % 8) → regs (.lcreq v) { c with lcerr := true }) ∧
    (c.mwBusy = true → exec (.mwipe v) s = .next s ∧ ∃ t, exec .wipeComplete s = .next t ∧ wiped t ∧
      t.colo = { c with mwBusy := false, mwDone := c.mwAfterGo }) ∧
    (c.mwBusy = false → exec .wipeComplete s = .next s ∧
      (v.getLsbD 0 = false → regs (.mwipe v) { c with mwDone := false, mwErr := false }) ∧
      (v.getLsbD 0 = true → s.mayWipe = true →
        regs (.mwipe v) { c with mwDone := false, mwErr := false, mwBusy := true, mwAfterGo := true }) ∧
      (v.getLsbD 0 = true → s.mayWipe = false → regs (.mwipe v) { c with mwDone := false, mwErr := true })) ∧
    regs .shactlInit { c with hash := some [] } ∧
    (∀ m, c.hash = some m → regs (.shain v) { c with hash := some (m ++ leBytes 8 v.toNat) } ∧
      regs .shactlFinal { c with hash := none, shadig := sha512 m }) ∧
    (c.hash = none → exec (.shain v) s = .next s ∧ exec .shactlFinal s = .next s) ∧
    (c.ecstat ≠ 1 → regs .ecctlGo { c with ecstat := 1, mwDone := false, mwAfterGo := false, keysWiped := false } ∧
      exec .verifyComplete s = .next s) ∧
    (c.ecstat = 1 → exec .ecctlGo s = .next s ∧ ∃ t, exec .verifyComplete s = .next t ∧ (t.colo.ecstat = 2 ∨ t.colo.ecstat = 3) ∧
      t = { s with free := s.free + 4, colo := { c with ecstat := t.colo.ecstat, nonce := t.colo.nonce } } ∧
      ((∃ l ∈ [c.qx, c.qy, c.sr, c.ss], ∃ b ∈ l.drop 66, b ≠ 0) → t.colo.ecstat = 3)) ∧
    (v.getLsbD 0 = true → ∃ t, exec (.kwipe v) s = .next t ∧ (∀ n, (t.part n).key = List.replicate 32 0) ∧
      t.colo = { c with keysWiped := c.keysWiped || decide (c.ecstat = 2 ∨ c.ecstat = 3) } ∧ sameMemory s t) ∧
    (v.getLsbD 0 = false → exec (.kwipe v) s = .next s) ∧
    (∃ t, exec (.amext v) s = .next t ∧ t = { s with colo := { c with am := t.colo.am } } ∧
      ∀ j : Fin 8, t.colo.am[j] = if j.val = v.toNat % 8 then sha512 (c.am[j] ++ c.shadig) else c.am[j]) ∧
    (∃ d : BitVec 16, regs (.dport v) { c with dport := d } ∧
      let opens := c.ecstat = 2 ∧ c.keysWiped = true ∧ c.mwDone = true ∧ (c.lc = 2 ∨ c.lc = 4 ∨ c.lc = 5)
      (c.lc = 0 ∨ c.lc = 1 → d = c.dport) ∧
      (c.lc ≠ 0 → c.lc ≠ 1 → v.toNat % 2 ^ 16 = 0 → d = 0) ∧
      (v.toNat % 2 ^ 16 ≠ 0 → opens → d.toNat = v.toNat % 2 ^ 16) ∧
      (v.toNat % 2 ^ 16 ≠ 0 → ¬ opens → d = c.dport)) ∧
    (∀ r, exec (.rng r) s = .next ({ s with free := s.free + 1 }.setCore 640 ((s.core 640).setG r (Config.freeWord s.free)))) ∧
    (∀ off, let k := coloData + 0xF000 + off
      let zero := (0x170 ≤ off ∧ off < 0x180) ∨ (0x1B8 ≤ off ∧ off < 0x200)
      (off % 8 = 0 → off + 8 ≤ 0x200 → ¬ zero → littleEndian s (coloData + 0xF160) 1 % 2 = 0 → Memory.wf s.mem = true →
        ∃ u t, s.hears u ∧ exec (.mailboxWrite off v) s = .next t ∧ littleEndian t k 8 = v.toNat ∧ sameOutside s t k 8 ∧
          t = { u with mem := t.mem }) ∧
      (off % 8 ≠ 0 ∨ 0x200 < off + 8 → ∃ u, s.hears u ∧
        exec (.mailboxWrite off v) s = .next { u with replies := s.replies ++ [⟨0xFF, false, []⟩] }) ∧
      (off % 8 = 0 → off + 8 ≤ 0x200 → zero ∨ littleEndian s (coloData + 0xF160) 1 % 2 = 1 →
        ∃ u, s.hears u ∧ exec (.mailboxWrite off v) s = .next u)) ∧
    (∀ req, ∃ l u, s.hears u ∧ exec (.spdmRequest req) s = .next { u with
        free := s.free + 2, colo := { c with spdm := c.spdm ++ [⟨l, Config.spdmAnswer (s.free + 1) req⟩] } } ∧
      (∀ e ∈ l, 1 ≤ e.1 ∧ e.1 ≤ 9 ∧ (∀ h : e.1 - 1 < 8, e.2 = c.am[e.1 - 1]'h) ∧ (e.1 = 9 → e.2 = leBytes 8 (c.lc.toNat + c.bootcnt.toNat * 2 ^ 32))) ∧
      ((req.getD 1 0).toNat = 0xE0 → (req.getD 3 0).toNat = 0xFF → l.map Prod.fst = [1, 2, 3, 4, 5, 6, 7, 8, 9]))
end

