-- ==== Sys2Proof/Laws/Settle.lean ====
section
/-!
SUPPORT. Laws of the words under way and of what must come before a step: what each of the shared operations can do.
-/

namespace Sys2Proof.Machine

@[simp] theorem Core.fenced_phase (c : Core) (m : BitVec 16) : (c.fenced m).phase = c.phase := rfl
@[simp] theorem Core.fenced_seat (c : Core) (m : BitVec 16) : (c.fenced m).seat = c.seat := rfl
@[simp] theorem Core.fenced_bad (c : Core) (m : BitVec 16) : (c.fenced m).bad = c.bad := rfl
@[simp] theorem Core.fenced_dbg (c : Core) (m : BitVec 16) : (c.fenced m).dbg = c.dbg := rfl
@[simp] theorem Core.fenced_shadow (c : Core) (m : BitVec 16) : (c.fenced m).shadow = c.shadow := rfl
@[simp] theorem Core.fenced_pc (c : Core) (m : BitVec 16) : (c.fenced m).ctx.pc = c.ctx.pc := rfl
@[simp] theorem Core.fenced_mode (c : Core) (m : BitVec 16) : (c.fenced m).ctx.mode = c.ctx.mode := rfl
@[simp] theorem Core.fenced_rg (c : Core) (m : BitVec 16) (i : BitVec 5) : (c.fenced m).rg i = c.rg i := rfl
@[simp] theorem Core.setShadow_shadow (c : Core) (h : Shadow) : (c.setShadow h).shadow = h := rfl
@[simp] theorem Core.setShadow_ctx (c : Core) (h : Shadow) : (c.setShadow h).ctx = c.ctx := rfl
@[simp] theorem Core.setShadow_phase (c : Core) (h : Shadow) : (c.setShadow h).phase = c.phase := rfl
@[simp] theorem Core.setShadow_seat (c : Core) (h : Shadow) : (c.setShadow h).seat = c.seat := rfl
@[simp] theorem Core.setShadow_late (c : Core) (h : Shadow) : (c.setShadow h).late = c.late := rfl

/-- A shadow that has been written anew holds no error. -/
theorem Core.setShadow_sound (c : Core) (h : Shadow) : Bad.shadow ∉ (c.setShadow h).bad := by
  simp [Core.setShadow]

/-- An access that may stop a core is carried out, or nothing happens. -/
theorem State.gently_cases (s : State) (f : State → State) : s.gently f = s ∨ s.gently f = f s := by
  simp only [State.gently]
  split <;> simp

/-- A step is taken at once, or after what must come first, or is held, or ends as it ends there. -/
theorem State.settled_cases (s : State) (gen : Bool) (held : State → State) (f : State → Out) :
    s.settled gen held f = f s ∨ ∃ t, f s = .next t ∧
      (s.settled gen held f = f (s.rush t gen) ∨ s.settled gen held f = .next (held (s.rush t gen))) := by
  unfold State.settled
  cases h : f s with
  | next t =>
    by_cases hp : s.hurries t gen false = true
    · refine .inr ⟨t, rfl, ?_⟩
      simp only [hp, Bool.not_true, Bool.false_eq_true, if_false]
      cases h1 : f (s.rush t gen) with
      | next u => by_cases hu : (s.rush t gen).hurries u gen true = true <;> simp [hu]
      | fault _ => simp
      | refused _ => simp
    · exact .inl (by simp [hp])
  | fault _ => exact .inl rfl
  | refused _ => exact .inl rfl

/-- A step of the package's own is taken, or nothing happens. -/
theorem State.calm_cases (s : State) (gen : Bool) (f : State → Out) :
    s.calm gen f = s ∨ s.settled gen id f = .next (s.calm gen f) := by
  unfold State.calm
  cases s.settled gen id f with
  | next t => by_cases h : t.devHeld = true <;> simp [h]
  | fault _ => simp
  | refused _ => simp

/-- A word under way waits, or is over with the values that its home, an older store, or a home that has come to refuse it gives. -/
theorem State.lateGo_cases (s : State) (p k : Nat) :
    s.lateGo p k = s ∨ ∃ l vs s', (s.core p).late[k]? = some l ∧
      s.lateGo p k = s'.mapCore p (fun c => { c.take l.i vs with late := c.late.eraseIdx k }) ∧
      (s.lateAt p ((s.core p).late.take k) l = .ok vs s' ∨
        (s.lateAt p ((s.core p).late.take k) l = .fail ∧ s' = { s with free := s.free + 2 })) := by
  simp only [State.lateGo]
  cases hk : (s.core p).late[k]? with
  | none => exact .inl rfl
  | some l =>
    cases ha : s.lateAt p ((s.core p).late.take k) l with
    | wait => exact .inl (by simp only [ha])
    | ok vs s' => exact .inr ⟨l, vs, s', rfl, by simp only [ha], .inl ha⟩
    | fail =>
      exact .inr ⟨l, [Config.freeWord s.free, Config.freeWord (s.free + 1)], { s with free := s.free + 2 }, rfl,
        by simp only [ha], .inr ⟨ha, rfl⟩⟩

end Sys2Proof.Machine
end

