-- ==== Sys2Proof/Tests/Slice0.lean ====
section
/-!
SUPPORT. Tests: ill-formed terms, words of every instruction written out from the spec's encodings, small checks from the spec's
worked examples, and for every statement with hypotheses a state and operands that meet them.
-/

namespace Sys2Proof.Tests

set_option Elab.async false

open Sys2Proof Sys2Proof.Machine

/-! ### Well-formedness and decoding -/

/-- Ill-formed instruction words: a barrier beyond b95, a token slot beyond t62, an empty loop body, a vector word with an unused field. -/
def illFormedWords : List Instr := [.barInit ⟨⟨0, 0⟩, 96, 1⟩, .barArr ⟨⟨0, 0⟩, 96, 1⟩, .barWait ⟨⟨0, 0⟩, 96, 1⟩, .barAw ⟨⟨0, 0⟩, 96, 1⟩,
  .tokWait ⟨⟨0, 0⟩, 63⟩, .tokTest ⟨⟨0, 0⟩, 63, 1⟩, .tokSnap ⟨⟨0, 0⟩, 63, 1⟩, .tokWaitv ⟨⟨0, 0⟩, 63, 1⟩, .loop ⟨⟨0, 0⟩, 0, 0, 1, 0⟩]

/-- The vector opcodes. -/
def vectorOps : List VOp := [.vadd, .vsub, .vmul, .vfma, .vfms, .vmin, .vmax, .vabs, .vneg, .vadds, .vmuls, .vfmas, .vrcp, .vrsq, .vexp2, .vlog2,
  .viadd, .visub, .vimul, .vand, .vor, .vxor, .vshl, .vshr, .vsar, .vimin, .vimax, .viadds, .vcmp, .vcmps, .vsel, .vmov, .vbcs, .viota, .kop, .kpop,
  .vget, .vrotr, .vrotc, .vbcr, .vbcc, .vredr, .vredc, .vshuf, .vcvt, .vpack, .vunpk, .vfix, .vflt, .vld, .vst, .vldb, .vstadd, .vzero]

/-- R35, R38, R116. -/
theorem test_ill_formed_words : ∀ i ∈ illFormedWords, ¬ WellFormed i := by decide
/-- R35, R41: no opcode uses all of VD, VA, VB and GS. -/
theorem test_ill_formed_vector : ∀ op ∈ vectorOps, ¬ WellFormed (op.instr ⟨15, 15, 15, 3, 31, 31⟩) := by decide +kernel
/-- A core, stack, channel, partition word, sink, lease entry, HBM address or place of a junction that is not there. -/
theorem test_ill_formed_events : ∀ i ∈ ([.loadQueueData 641 0 none, .storePerform 641 0 0, .coreIdle 641, .engineCommandStart 641 .me,
  .engineCommandComplete 641 .me 0, .wave 641, .waymarkArrival 641 0 0, .parking 641 0, .tileDrain 641 0, .deposit 641 0 0,
  .retrainBegin 8 0, .retrainBegin 0 32, .retrainEnd 8 0 true, .retrainEnd 0 32 true, .rebuilt 8 0, .rebuilt 0 32, .swap 641, .trapEntry 641,
  .debugStop 641, .prqReq 641 0, .haltreq 641, .resume 641, .claim 641 true, .ctxctlEmpty 641, .ctxctlLoaded 641, .sealing 641,
  .cownWrite 0 10 0, .sinkEnable 17, .sync 17, .sample 641, .drop 17, .stall 641 .sq 0, .pctlClr 641, .offer 64, .accept 64 (.ours 0),
  .revoke 64 (.ours 0), .release 64 (.ours 0), .clear 64, .deadline 64, .leaseAccess 64 0 (.read 1) 0, .hostMemRead ⟨0x5A00000000, 1, 0⟩ 1,
  .hostMemWrite ⟨0x5A00000000, 1, 0⟩ [0], .lenderWipeComplete 64, .trip 3 0 110] : List Instr), ¬ WellFormed i := by
  decide +kernel

/-- The decoder reads the word as the instruction. -/
def word (w : Code) (i : Instr) : Bool := match decode w with | .ok j => j == i | .error _ => false

/-- R37, R50: D 3, A 20, B 21. Every word has PG 2, PN 1. -/
theorem test_decode_alu :
    word 0b0_010_1_000000_00011_10100_10101_000000 (.add ⟨⟨2, 1⟩, 3, 20, 21⟩) ∧
    word 0b0_010_1_000000_00011_10100_10101_000001 (.sub ⟨⟨2, 1⟩, 3, 20, 21⟩) ∧
    word 0b0_010_1_000000_00011_10100_10101_000010 (.and ⟨⟨2, 1⟩, 3, 20, 21⟩) ∧
    word 0b0_010_1_000000_00011_10100_10101_000011 (.or ⟨⟨2, 1⟩, 3, 20, 21⟩) ∧
    word 0b0_010_1_000000_00011_10100_10101_000100 (.xor ⟨⟨2, 1⟩, 3, 20, 21⟩) ∧
    word 0b0_010_1_000000_00011_10100_10101_000101 (.andn ⟨⟨2, 1⟩, 3, 20, 21⟩) ∧
    word 0b0_010_1_000000_00011_10100_10101_000110 (.shl ⟨⟨2, 1⟩, 3, 20, 21⟩) ∧
    word 0b0_010_1_000000_00011_10100_10101_000111 (.shr ⟨⟨2, 1⟩, 3, 20, 21⟩) ∧
    word 0b0_010_1_000000_00011_10100_10101_001000 (.sar ⟨⟨2, 1⟩, 3, 20, 21⟩) ∧
    word 0b0_010_1_000000_00011_10100_10101_001001 (.rotl ⟨⟨2, 1⟩, 3, 20, 21⟩) ∧
    word 0b0_010_1_000000_00011_10100_10101_001010 (.min ⟨⟨2, 1⟩, 3, 20, 21⟩) ∧
    word 0b0_010_1_000000_00011_10100_10101_001011 (.max ⟨⟨2, 1⟩, 3, 20, 21⟩) ∧
    word 0b0_010_1_000000_00011_10100_10101_001100 (.minn ⟨⟨2, 1⟩, 3, 20, 21⟩) ∧
    word 0b0_010_1_000000_00011_10100_10101_001101 (.maxn ⟨⟨2, 1⟩, 3, 20, 21⟩) ∧
    word 0b0_010_1_000000_00011_10100_10101_001110 (.mul ⟨⟨2, 1⟩, 3, 20, 21⟩) ∧
    word 0b0_010_1_000000_00011_10100_10101_001111 (.mulh ⟨⟨2, 1⟩, 3, 20, 21⟩) ∧
    word 0b0_010_1_000000_00011_10100_10101_010000 (.mulhn ⟨⟨2, 1⟩, 3, 20, 21⟩) ∧
    word 0b0_010_1_000000_00011_10100_10101_010001 (.div ⟨⟨2, 1⟩, 3, 20, 21⟩) ∧
    word 0b0_010_1_000000_00011_10100_10101_010010 (.divn ⟨⟨2, 1⟩, 3, 20, 21⟩) ∧
    word 0b0_010_1_000000_00011_10100_10101_010011 (.rem ⟨⟨2, 1⟩, 3, 20, 21⟩) ∧
    word 0b0_010_1_000000_00011_10100_10101_010100 (.remn ⟨⟨2, 1⟩, 3, 20, 21⟩) ∧
    word 0b0_010_1_000000_00011_10100_10101_011101 (.addw ⟨⟨2, 1⟩, 3, 20, 21⟩) ∧
    word 0b0_010_1_000000_00011_10100_10101_011110 (.subw ⟨⟨2, 1⟩, 3, 20, 21⟩) ∧
    word 0b0_010_1_000000_00011_10100_10101_011111 (.mulw ⟨⟨2, 1⟩, 3, 20, 21⟩) := by
  decide +kernel

/-- R37: the one-operand forms ignore B. Every word has PG 2, PN 1. -/
theorem test_decode_alu_one :
    word 0b0_010_1_000000_00011_10100_10101_010101 (.clz ⟨⟨2, 1⟩, 3, 20⟩) ∧
    word 0b0_010_1_000000_00011_10100_10101_010110 (.popc ⟨⟨2, 1⟩, 3, 20⟩) ∧
    word 0b0_010_1_000000_00011_10100_10101_010111 (.sxb ⟨⟨2, 1⟩, 3, 20⟩) ∧
    word 0b0_010_1_000000_00011_10100_10101_011000 (.sxh ⟨⟨2, 1⟩, 3, 20⟩) ∧
    word 0b0_010_1_000000_00011_10100_10101_011001 (.sxw ⟨⟨2, 1⟩, 3, 20⟩) ∧
    word 0b0_010_1_000000_00011_10100_10101_011010 (.zxb ⟨⟨2, 1⟩, 3, 20⟩) ∧
    word 0b0_010_1_000000_00011_10100_10101_011011 (.zxh ⟨⟨2, 1⟩, 3, 20⟩) ∧
    word 0b0_010_1_000000_00011_10100_10101_011100 (.zxw ⟨⟨2, 1⟩, 3, 20⟩) := by
  decide +kernel

/-- R34, R52 to R54: the shift words ignore IMM11[10:6]. Every word has PG 2, PN 1. -/
theorem test_decode_imm :
    word 0b0_010_1_000001_00011_10100_10110100101 (.addi ⟨⟨2, 1⟩, 3, 20, 0x5A5⟩) ∧
    word 0b0_010_1_000010_00011_10100_10110100101 (.andi ⟨⟨2, 1⟩, 3, 20, 0x5A5⟩) ∧
    word 0b0_010_1_000011_00011_10100_10110100101 (.ori ⟨⟨2, 1⟩, 3, 20, 0x5A5⟩) ∧
    word 0b0_010_1_000100_00011_10100_10110100101 (.xori ⟨⟨2, 1⟩, 3, 20, 0x5A5⟩) ∧
    word 0b0_010_1_000101_00011_10100_11111100101 (.shli ⟨⟨2, 1⟩, 3, 20, 0x25⟩) ∧
    word 0b0_010_1_000110_00011_10100_11111100101 (.shri ⟨⟨2, 1⟩, 3, 20, 0x25⟩) ∧
    word 0b0_010_1_000111_00011_10100_11111100101 (.sari ⟨⟨2, 1⟩, 3, 20, 0x25⟩) ∧
    word 0b0_010_1_001000_10011_1011111011101111 (.li ⟨⟨2, 1⟩, 19, 0xBEEF⟩) ∧
    word 0b0_010_1_001001_10011_1011111011101111 (.lsh ⟨⟨2, 1⟩, 19, 0xBEEF⟩) := by
  decide +kernel

/-- R38, R55 to R58: the predicates are the low three bits of their fields. Every word has PG 2, PN 1. -/
theorem test_decode_pred :
    word 0b0_010_1_001010_10011_00100_11001_000100 (.cmp ⟨⟨2, 1⟩, 2, 3, 4, 25, 4⟩) ∧
    word 0b0_010_1_001011_011_100_10101_1010100101 (.cmpi ⟨⟨2, 1⟩, 3, 4, 21, 0x2A5⟩) ∧
    word 0b0_010_1_001100_11101_01110_10011_000000 (.pand ⟨⟨2, 1⟩, 5, 6, 3⟩) ∧
    word 0b0_010_1_001100_11101_01110_10011_000001 (.por ⟨⟨2, 1⟩, 5, 6, 3⟩) ∧
    word 0b0_010_1_001100_11101_01110_10011_000010 (.pxor ⟨⟨2, 1⟩, 5, 6, 3⟩) ∧
    word 0b0_010_1_001100_11101_01110_10011_000011 (.pandn ⟨⟨2, 1⟩, 5, 6, 3⟩) ∧
    word 0b0_010_1_001100_11101_01110_10011_000100 (.pnot ⟨⟨2, 1⟩, 5, 6⟩) ∧
    word 0b0_010_1_001100_11101_01110_10011_000101 (.pmov ⟨⟨2, 1⟩, 5, 6⟩) ∧
    word 0b0_010_1_001101_00011_10100_10101_000110 (.sel ⟨⟨2, 1⟩, 3, 20, 21, 6⟩) := by
  decide +kernel

/-- R33, R38, R59, R63, R223. Every word has PG 2, PN 1. -/
theorem test_decode_access :
    word 0b0_010_1_010000_10001_01001_1011_1000101 (.ldB ⟨⟨2, 1⟩, 17, 9, 11, 0x45⟩) ∧
    word 0b0_010_1_010001_10001_01001_1011_1000101 (.ldBz ⟨⟨2, 1⟩, 17, 9, 11, 0x45⟩) ∧
    word 0b0_010_1_010010_10001_01001_1011_1000101 (.ldH ⟨⟨2, 1⟩, 17, 9, 11, 0x45⟩) ∧
    word 0b0_010_1_010011_10001_01001_1011_1000101 (.ldHz ⟨⟨2, 1⟩, 17, 9, 11, 0x45⟩) ∧
    word 0b0_010_1_010100_10001_01001_1011_1000101 (.ldW ⟨⟨2, 1⟩, 17, 9, 11, 0x45⟩) ∧
    word 0b0_010_1_010101_10001_01001_1011_1000101 (.ldWz ⟨⟨2, 1⟩, 17, 9, 11, 0x45⟩) ∧
    word 0b0_010_1_010110_10001_01001_1011_1000101 (.ldD ⟨⟨2, 1⟩, 17, 9, 11, 0x45⟩) ∧
    word 0b0_010_1_011000_10001_01001_1011_1000101 (.stB ⟨⟨2, 1⟩, 17, 9, 11, 0x45⟩) ∧
    word 0b0_010_1_011001_10001_01001_1011_1000101 (.stH ⟨⟨2, 1⟩, 17, 9, 11, 0x45⟩) ∧
    word 0b0_010_1_011010_10001_01001_1011_1000101 (.stW ⟨⟨2, 1⟩, 17, 9, 11, 0x45⟩) ∧
    word 0b0_010_1_011011_10001_01001_1011_1000101 (.stD ⟨⟨2, 1⟩, 17, 9, 11, 0x45⟩) ∧
    word 0b0_010_1_011100_00110_0000101100000011 (.sld ⟨⟨2, 1⟩, 6, 5, 0x103⟩) ∧
    word 0b0_010_1_011101_00110_0000101100000011 (.sst ⟨⟨2, 1⟩, 6, 5, 0x103⟩) ∧
    word 0b0_010_1_011110_00111_00101_1001_1011010 (.fld ⟨⟨2, 1⟩, 7, 5, 9, 5, 0xA⟩) ∧
    word 0b0_010_1_011111_01000_00101_1001_1011011 (.fld2 ⟨⟨2, 1⟩, 8, 5, 9, 5, 1, 3⟩) := by
  decide +kernel

/-- R190, R193: scope and class in FN; D[1:0] of `fence` ignored. Every word has PG 2, PN 1. -/
theorem test_decode_atomic :
    word 0b0_010_1_100000_00011_10100_10101_101101 (.amoAdd ⟨⟨2, 1⟩, 3, 20, 21, 2, 13⟩) ∧
    word 0b0_010_1_100001_00011_10100_10101_101101 (.amoAnd ⟨⟨2, 1⟩, 3, 20, 21, 2, 13⟩) ∧
    word 0b0_010_1_100010_00011_10100_10101_101101 (.amoOr ⟨⟨2, 1⟩, 3, 20, 21, 2, 13⟩) ∧
    word 0b0_010_1_100011_00011_10100_10101_101101 (.amoXor ⟨⟨2, 1⟩, 3, 20, 21, 2, 13⟩) ∧
    word 0b0_010_1_100100_00011_10100_10101_101101 (.amoMin ⟨⟨2, 1⟩, 3, 20, 21, 2, 13⟩) ∧
    word 0b0_010_1_100101_00011_10100_10101_101101 (.amoMax ⟨⟨2, 1⟩, 3, 20, 21, 2, 13⟩) ∧
    word 0b0_010_1_100110_00011_10100_10101_101101 (.amoSwp ⟨⟨2, 1⟩, 3, 20, 21, 2, 13⟩) ∧
    word 0b0_010_1_100111_00011_10100_10101_101101 (.amoCas ⟨⟨2, 1⟩, 3, 20, 21, 2, 13⟩) ∧
    word 0b0_010_1_101000_00011_10100_10101_101101 (.amoMinn ⟨⟨2, 1⟩, 3, 20, 21, 2, 13⟩) ∧
    word 0b0_010_1_101001_00011_10100_10101_101101 (.amoMaxn ⟨⟨2, 1⟩, 3, 20, 21, 2, 13⟩) ∧
    word 0b0_010_1_101010_10111_1010000000000101 (.fence ⟨⟨2, 1⟩, 5, 0xA005⟩) := by
  decide +kernel

/-- R38, R179, R243, R254. Every word has PG 2, PN 1. -/
theorem test_decode_sync :
    word 0b0_010_1_101011_000_1011111_10100_111111 (.barInit ⟨⟨2, 1⟩, 95, 20⟩) ∧
    word 0b0_010_1_101011_001_1011111_10100_111111 (.barArr ⟨⟨2, 1⟩, 95, 20⟩) ∧
    word 0b0_010_1_101011_010_1011111_10100_111111 (.barWait ⟨⟨2, 1⟩, 95, 20⟩) ∧
    word 0b0_010_1_101011_011_1011111_10100_111111 (.barAw ⟨⟨2, 1⟩, 95, 20⟩) ∧
    word 0b0_010_1_101100_000_0111110_10100_111111 (.tokWait ⟨⟨2, 1⟩, 62⟩) ∧
    word 0b0_010_1_101100_001_0111110_10100_111010 (.tokTest ⟨⟨2, 1⟩, 62, 2⟩) ∧
    word 0b0_010_1_101100_010_0111110_10100_111111 (.tokSnap ⟨⟨2, 1⟩, 62, 20⟩) ∧
    word 0b0_010_1_101100_011_0111110_10100_111111 (.tokWaitv ⟨⟨2, 1⟩, 62, 20⟩) ∧
    word 0b0_010_1_101101_00011_10100_10101_000000 (.wmkInit ⟨⟨2, 1⟩, 20, 21⟩) ∧
    word 0b0_010_1_101101_00011_10100_10101_000001 (.wmkWait ⟨⟨2, 1⟩, 20, 21⟩) ∧
    word 0b0_010_1_101101_00011_10100_10101_000010 (.wmkAdd ⟨⟨2, 1⟩, 20, 21⟩) ∧
    word 0b0_010_1_101101_00011_10100_10101_000011 (.wmkGen ⟨⟨2, 1⟩, 3, 20⟩) ∧
    word 0b0_010_1_101101_11101_10100_10101_000100 (.wmkTest ⟨⟨2, 1⟩, 5, 20, 21⟩) := by
  decide +kernel

/-- R33, R38, R64 to R66, R71. Every word has PG 2, PN 1. -/
theorem test_decode_control :
    word 0b0_010_1_110000_101010000101000000101 (.br ⟨⟨2, 1⟩, 0x150A05⟩) ∧
    word 0b0_010_1_110001_101010000101000000101 (.call ⟨⟨2, 1⟩, 0x150A05⟩) ∧
    word 0b0_010_1_110010_00011_10100_10101_000000 (.jr ⟨⟨2, 1⟩, 20⟩) ∧
    word 0b0_010_1_110010_00011_10100_10101_000001 (.jrl ⟨⟨2, 1⟩, 3, 20⟩) ∧
    word 0b0_010_1_110011_10_101_10100_10000000101 (.loop ⟨⟨2, 1⟩, 2, 5, 20, 0x405⟩) ∧
    word 0b0_010_1_110100_11110_10100_10101_000000 (.lexit ⟨⟨2, 1⟩, 2⟩) := by
  decide +kernel

/-- R38, R39: TP 62, A 20, B 9. Every word has PG 2, PN 1. -/
theorem test_decode_engine :
    word 0b0_010_1_111000_111110_10100_01001_00000 (.mload ⟨⟨2, 1⟩, 62, 20, 9⟩) ∧
    word 0b0_010_1_111000_111110_10100_01001_00001 (.mswap ⟨⟨2, 1⟩, 62, 20, 9⟩) ∧
    word 0b0_010_1_111000_111110_10100_01001_00010 (.mcfg ⟨⟨2, 1⟩, 62, 20, 9⟩) ∧
    word 0b0_010_1_111000_111110_10100_01001_00011 (.mgo ⟨⟨2, 1⟩, 62, 20, 9⟩) ∧
    word 0b0_010_1_111000_111110_10100_01001_00100 (.mstream ⟨⟨2, 1⟩, 62, 20, 9⟩) ∧
    word 0b0_010_1_111000_111110_10100_01001_00101 (.mdrain ⟨⟨2, 1⟩, 62, 20, 9⟩) ∧
    word 0b0_010_1_111000_111110_10100_01001_00110 (.mzero ⟨⟨2, 1⟩, 62, 20, 9⟩) ∧
    word 0b0_010_1_111000_111110_10100_01001_00111 (.mmode ⟨⟨2, 1⟩, 62, 20, 9⟩) ∧
    word 0b0_010_1_111001_111110_10100_01001_00000 (.wtab ⟨⟨2, 1⟩, 62, 20, 9⟩) ∧
    word 0b0_010_1_111001_111110_10100_01001_00001 (.wstream ⟨⟨2, 1⟩, 62, 20, 9⟩) ∧
    word 0b0_010_1_111010_111110_10100_01001_00000 (.cpy ⟨⟨2, 1⟩, 62, 20, 9⟩) ∧
    word 0b0_010_1_111010_111110_10100_01001_00001 (.cnest ⟨⟨2, 1⟩, 62, 20, 9⟩) ∧
    word 0b0_010_1_111010_111110_10100_01001_00010 (.cmc ⟨⟨2, 1⟩, 62, 20, 9⟩) ∧
    word 0b0_010_1_111010_111110_10100_01001_00011 (.cacc ⟨⟨2, 1⟩, 62, 20, 9⟩) ∧
    word 0b0_010_1_111010_111110_10100_01001_00100 (.cgat ⟨⟨2, 1⟩, 62, 20, 9⟩) ∧
    word 0b0_010_1_111010_111110_10100_01001_00101 (.csct ⟨⟨2, 1⟩, 62, 20, 9⟩) ∧
    word 0b0_010_1_111010_111110_10100_01001_00110 (.cstage ⟨⟨2, 1⟩, 62, 20, 9⟩) ∧
    word 0b0_010_1_111011_111110_10100_01001_00000 (.fbind ⟨⟨2, 1⟩, 62, 20, 9⟩) ∧
    word 0b0_010_1_111011_111110_10100_01001_00001 (.ftick ⟨⟨2, 1⟩, 62, 20, 9⟩) ∧
    word 0b0_010_1_111011_111110_10100_01001_00010 (.walk ⟨⟨2, 1⟩, 62, 20, 9⟩) := by
  decide +kernel

/-- R38, R73, R74, R140 to R143. Every word has PG 2, PN 1. -/
theorem test_decode_system :
    word 0b0_010_1_111100_00011_10100_10101_000000 (.nop ⟨2, 1⟩) ∧
    word 0b0_010_1_111100_00011_10100_10101_000001 (.halt ⟨2, 1⟩) ∧
    word 0b0_010_1_111100_00011_10100_10101_000010 (.trap ⟨⟨2, 1⟩, 20⟩) ∧
    word 0b0_010_1_111100_00011_10100_10101_000011 (.eret ⟨2, 1⟩) ∧
    word 0b0_010_1_111100_00011_10100_10101_000100 (.brk ⟨2, 1⟩) ∧
    word 0b0_010_1_111100_00011_10100_10101_000101 (.ifence ⟨2, 1⟩) ∧
    word 0b0_010_1_111100_00011_10100_10101_000110 (.tmark ⟨⟨2, 1⟩, 20⟩) ∧
    word 0b0_010_1_111100_00011_10100_10101_000111 (.yield ⟨2, 1⟩) ∧
    word 0b0_010_1_111101_01000_10100_10110000111 (.csrr ⟨⟨2, 1⟩, 8, 0x587⟩) ∧
    word 0b0_010_1_111110_01000_10100_10110000111 (.csrw ⟨⟨2, 1⟩, 20, 0x587⟩) ∧
    word 0b0_010_1_111111_00011_10100_10101_000000 (.vfence ⟨2, 1⟩) ∧
    word 0b0_010_1_111111_11101_10100_10101_000001 (.vbusy ⟨⟨2, 1⟩, 5⟩) ∧
    word 0b0_010_1_111111_00011_10100_10101_000010 (.vmode ⟨⟨2, 1⟩, 20⟩) ∧
    word 0b0_010_1_111111_00011_10100_10101_000011 (.vtake ⟨⟨2, 1⟩, 3⟩) := by
  decide +kernel

/-- R41, R42: VD 11, VA 13, VB 14, GAP 2, GS 17, GT 9; fields that the opcode does not use are ignored, and bit 3 of a mask field. -/
theorem test_decode_vector_00 :
    word 0b1_0000000_1011_1101_1110_10_10001_01001 (.vadd ⟨11, 13, 14, 2, 0, 9⟩) ∧
    word 0b1_0000001_1011_1101_1110_10_10001_01001 (.vsub ⟨11, 13, 14, 2, 0, 9⟩) ∧
    word 0b1_0000010_1011_1101_1110_10_10001_01001 (.vmul ⟨11, 13, 14, 2, 0, 9⟩) ∧
    word 0b1_0000011_1011_1101_1110_10_10001_01001 (.vfma ⟨11, 13, 14, 2, 0, 9⟩) ∧
    word 0b1_0000100_1011_1101_1110_10_10001_01001 (.vfms ⟨11, 13, 14, 2, 0, 9⟩) ∧
    word 0b1_0000101_1011_1101_1110_10_10001_01001 (.vmin ⟨11, 13, 14, 2, 0, 9⟩) ∧
    word 0b1_0000110_1011_1101_1110_10_10001_01001 (.vmax ⟨11, 13, 14, 2, 0, 9⟩) ∧
    word 0b1_0000111_1011_1101_1110_10_10001_01001 (.vabs ⟨11, 13, 0, 2, 0, 9⟩) ∧
    word 0b1_0001000_1011_1101_1110_10_10001_01001 (.vneg ⟨11, 13, 0, 2, 0, 9⟩) ∧
    word 0b1_0001001_1011_1101_1110_10_10001_01001 (.vadds ⟨11, 13, 0, 2, 17, 9⟩) ∧
    word 0b1_0001010_1011_1101_1110_10_10001_01001 (.vmuls ⟨11, 13, 0, 2, 17, 9⟩) ∧
    word 0b1_0001011_1011_1101_1110_10_10001_01001 (.vfmas ⟨11, 13, 0, 2, 17, 9⟩) ∧
    word 0b1_0001100_1011_1101_1110_10_10001_01001 (.vrcp ⟨11, 13, 0, 2, 0, 9⟩) ∧
    word 0b1_0001101_1011_1101_1110_10_10001_01001 (.vrsq ⟨11, 13, 0, 2, 0, 9⟩) ∧
    word 0b1_0001110_1011_1101_1110_10_10001_01001 (.vexp2 ⟨11, 13, 0, 2, 0, 9⟩) ∧
    word 0b1_0001111_1011_1101_1110_10_10001_01001 (.vlog2 ⟨11, 13, 0, 2, 0, 9⟩) := by
  decide +kernel

/-- R41, R42: VD 11, VA 13, VB 14, GAP 2, GS 17, GT 9; fields that the opcode does not use are ignored, and bit 3 of a mask field. -/
theorem test_decode_vector_10 :
    word 0b1_0010000_1011_1101_1110_10_10001_01001 (.viadd ⟨11, 13, 14, 2, 0, 9⟩) ∧
    word 0b1_0010001_1011_1101_1110_10_10001_01001 (.visub ⟨11, 13, 14, 2, 0, 9⟩) ∧
    word 0b1_0010010_1011_1101_1110_10_10001_01001 (.vimul ⟨11, 13, 14, 2, 0, 9⟩) ∧
    word 0b1_0010011_1011_1101_1110_10_10001_01001 (.vand ⟨11, 13, 14, 2, 0, 9⟩) ∧
    word 0b1_0010100_1011_1101_1110_10_10001_01001 (.vor ⟨11, 13, 14, 2, 0, 9⟩) ∧
    word 0b1_0010101_1011_1101_1110_10_10001_01001 (.vxor ⟨11, 13, 14, 2, 0, 9⟩) ∧
    word 0b1_0010110_1011_1101_1110_10_10001_01001 (.vshl ⟨11, 13, 14, 2, 0, 9⟩) ∧
    word 0b1_0010111_1011_1101_1110_10_10001_01001 (.vshr ⟨11, 13, 14, 2, 0, 9⟩) ∧
    word 0b1_0011000_1011_1101_1110_10_10001_01001 (.vsar ⟨11, 13, 14, 2, 0, 9⟩) ∧
    word 0b1_0011001_1011_1101_1110_10_10001_01001 (.vimin ⟨11, 13, 14, 2, 0, 9⟩) ∧
    word 0b1_0011010_1011_1101_1110_10_10001_01001 (.vimax ⟨11, 13, 14, 2, 0, 9⟩) ∧
    word 0b1_0011011_1011_1101_1110_10_10001_01001 (.viadds ⟨11, 13, 0, 2, 17, 9⟩) := by
  decide +kernel

/-- R41, R42: VD 11, VA 13, VB 14, GAP 2, GS 17, GT 9; fields that the opcode does not use are ignored, and bit 3 of a mask field. -/
theorem test_decode_vector_20 :
    word 0b1_0100000_1011_1101_1110_10_10001_01001 (.vcmp ⟨3, 13, 14, 2, 0, 9⟩) ∧
    word 0b1_0100001_1011_1101_1110_10_10001_01001 (.vcmps ⟨3, 13, 0, 2, 17, 9⟩) ∧
    word 0b1_0100010_1011_1101_1110_10_10001_01001 (.vsel ⟨11, 13, 14, 2, 0, 9⟩) ∧
    word 0b1_0100011_1011_1101_1110_10_10001_01001 (.vmov ⟨11, 13, 0, 2, 0, 9⟩) ∧
    word 0b1_0100100_1011_1101_1110_10_10001_01001 (.vbcs ⟨11, 0, 0, 2, 17, 9⟩) ∧
    word 0b1_0100101_1011_1101_1110_10_10001_01001 (.viota ⟨11, 0, 0, 2, 0, 9⟩) ∧
    word 0b1_0100110_1011_1101_1110_10_10001_01001 (.kop ⟨3, 5, 6, 2, 0, 9⟩) ∧
    word 0b1_0100111_1011_1101_1110_10_10001_01001 (.kpop ⟨11, 5, 0, 2, 0, 9⟩) ∧
    word 0b1_0101000_1011_1101_1110_10_10001_01001 (.vget ⟨0, 13, 0, 2, 17, 9⟩) := by
  decide +kernel

/-- R41, R42: VD 11, VA 13, VB 14, GAP 2, GS 17, GT 9; fields that the opcode does not use are ignored, and bit 3 of a mask field. -/
theorem test_decode_vector_30 :
    word 0b1_0110000_1011_1101_1110_10_10001_01001 (.vrotr ⟨11, 13, 0, 2, 17, 9⟩) ∧
    word 0b1_0110001_1011_1101_1110_10_10001_01001 (.vrotc ⟨11, 13, 0, 2, 17, 9⟩) ∧
    word 0b1_0110010_1011_1101_1110_10_10001_01001 (.vbcr ⟨11, 13, 0, 2, 17, 9⟩) ∧
    word 0b1_0110011_1011_1101_1110_10_10001_01001 (.vbcc ⟨11, 13, 0, 2, 17, 9⟩) ∧
    word 0b1_0110100_1011_1101_1110_10_10001_01001 (.vredr ⟨11, 13, 0, 2, 0, 9⟩) ∧
    word 0b1_0110101_1011_1101_1110_10_10001_01001 (.vredc ⟨11, 13, 0, 2, 0, 9⟩) ∧
    word 0b1_0110110_1011_1101_1110_10_10001_01001 (.vshuf ⟨11, 13, 14, 2, 0, 9⟩) := by
  decide +kernel

/-- R41, R42: VD 11, VA 13, VB 14, GAP 2, GS 17, GT 9; fields that the opcode does not use are ignored, and bit 3 of a mask field. -/
theorem test_decode_vector_40 :
    word 0b1_1000000_1011_1101_1110_10_10001_01001 (.vcvt ⟨11, 13, 0, 2, 0, 9⟩) ∧
    word 0b1_1000001_1011_1101_1110_10_10001_01001 (.vpack ⟨11, 13, 14, 2, 0, 9⟩) ∧
    word 0b1_1000010_1011_1101_1110_10_10001_01001 (.vunpk ⟨11, 13, 0, 2, 0, 9⟩) ∧
    word 0b1_1000011_1011_1101_1110_10_10001_01001 (.vfix ⟨11, 13, 0, 2, 0, 9⟩) ∧
    word 0b1_1000100_1011_1101_1110_10_10001_01001 (.vflt ⟨11, 13, 0, 2, 0, 9⟩) := by
  decide +kernel

/-- R41, R42: VD 11, VA 13, VB 14, GAP 2, GS 17, GT 9; fields that the opcode does not use are ignored, and bit 3 of a mask field. -/
theorem test_decode_vector_50 :
    word 0b1_1010000_1011_1101_1110_10_10001_01001 (.vld ⟨11, 0, 0, 2, 17, 9⟩) ∧
    word 0b1_1010001_1011_1101_1110_10_10001_01001 (.vst ⟨0, 13, 0, 2, 17, 9⟩) ∧
    word 0b1_1010010_1011_1101_1110_10_10001_01001 (.vldb ⟨11, 0, 0, 2, 17, 9⟩) ∧
    word 0b1_1010011_1011_1101_1110_10_10001_01001 (.vstadd ⟨0, 13, 0, 2, 17, 9⟩) ∧
    word 0b1_1010100_1011_1101_1110_10_10001_01001 (.vzero ⟨0, 0, 0, 2, 17, 9⟩) := by
  decide +kernel
/-! ### States to try words on -/

/-- Core 0 running a 1 × 1 task in TASK mode at the start of its scratchpad, where the word `w` stands. -/
def start (w : Nat) : State := State.reset.withFetchWord 32 w

/-- That core changed by `f`. -/
def on (f : Core → Core) : State := (start 0).mapCore 0 f

/-- Its context changed. -/
def withCtx (f : Ctx → Ctx) : State := on fun c => { c with ctx := f c.ctx }

/-- Registers of it set. -/
def regs (l : List (BitVec 5 × Word)) : State := on fun c => l.foldl (fun c x => c.setG x.1 x.2) c

/-- The guard that always executes. -/
def always : Guard := ⟨0, 0⟩

/-- A core without errors runs a word whose guard is true. -/
theorem runs_of (c : Core) (g : Guard) (l : List Bad) (h : (c.passes g && c.bad.isEmpty) = true) : c.runs g l := by
  simp only [Bool.and_eq_true, List.isEmpty_iff] at h
  simp [Core.runs, Core.sound, Core.meetsLoops, h.1, h.2]

/-- What runs its description has begun it. -/
theorem begins_of (c : Core) (g : Guard) (l : List Bad) (h : c.runs g l) : c.begins g l := ⟨h.1, h.2.1, h.2.2.1⟩

/-- Without an error in the loop state no way out of a body stops a word. -/
theorem meetsLoops_of (c : Core) (t : BitVec 48) (h : c.bad.isEmpty = true) : c.meetsLoops t = false := by
  simp [Core.meetsLoops, List.isEmpty_iff.mp h]

/-- The same for a word that the colophon has not. -/
theorem onCore_of (s : State) (g : Guard) (l : List Bad) (h : (s.now.passes g && s.now.bad.isEmpty) = true) (hc : s.cur ≠ 640) :
    s.onCore g l := ⟨runs_of _ _ _ h, hc⟩

/-- The same for a word that may not run while the queues are held. -/
theorem queues_of (s : State) (g : Guard) (l : List Bad) (h : (s.now.passes g && s.now.bad.isEmpty) = true) (hm : s.now.sys = false)
    (hc : s.cur ≠ 640) : s.queues g l := ⟨runs_of _ _ _ h, hm, hc⟩

theorem ok_of {α β : Type} [DecidableEq β] (r : Except α β) (v : β)
    (h : (match r with | .ok x => decide (x = v) | .error _ => false) = true) : r = .ok v := by
  cases r <;> simp_all

theorem go_of (w : Watch) (h : (match w with | .go => true | _ => false) = true) : w = .go := by
  cases w <;> simp_all

/-- A RUNNING task of partition 0 with record address 0, on core 0. -/
def aTask : Task where
  tcb := 0
  st := .running
  prio := 0
  lw := 0
  lh := 0
  fixed := false
  list := false
  x := 0
  y := 0
  needs := 0
  entry := 0x1000
  args := 7
  budget := 1
  ran := 4000
  hung := false
  faultp := 0
  schedp := 0
  spimg := 0
  age := 0
  bypass := 0
  fault := false
  bars := []
  cause := 0
  recfail := false
  claim := none

/-- Partition 0 changed. -/
def part0 (f : Part → Part) (s : State) : State := s.setPart 0 (f (s.part 0))

/-- The first bytes of core 0's own scratchpad. -/
def self : Word := 0xFF0000400000

/-- Translations of a window page at 0x10000, a backing page at 0x20000 and a normal page at 0x30000 (R184, R186). -/
def pages (f : State → State) : State :=
  let s := start 0
  f (s.setPart 0 { s.part 0 with tlb := [(1, 16, 0x0160000000010003), (2, 16, 0x0260000000020003), (3, 16, 0x0060000000030003)] })

/-- Core 0 in SYSTEM mode. -/
def sys (f : Ctx → Ctx) : State := withCtx fun x => { f x with mode := .system }

/-- A running copy. -/
def aCopy (op : EngOp) (st : CmdSt) : Cmd := ⟨0, op, 63, 0, 0, [], 0, st, 0, 1, none, ⟨0, 0, 7⟩, { Run.fresh with status := some (0, 0) }⟩

/-- A queued store of the low `n` bytes of `v` at key `k`. -/
def aStore (seq k n : Nat) (v : Word) : SEntry := ⟨seq, 0, .plain, [⟨0, .mem k, n, true, v, false⟩], true, 0, none, LoopTag.none⟩

/-- The descriptor of a one-cell region of window word 0x10000 with its backing entry at 0x20000 (R209). -/
def aRegionDesc : List Byte := leBytes 8 0x10000 ++ leBytes 8 0x20000 ++ leBytes 4 1 ++ List.replicate 44 0

/-- That region, registered. -/
def aRegion : Region := ⟨0, 0x10000, aRegionDesc, [(0x10000, 0x20000)], 1, [], [], [], []⟩

/-- A vector word in the VU's queue: VD 3, VA 1, VB 2, with GAP 0. -/
def entry (op : VOp) (gs gt : Word) : VEntry := ⟨0, some op, ⟨3, 1, 2, 0, 0, 0⟩, gs, gt, none, none, false, LoopTag.none⟩

/-- A core whose VU holds it. -/
def issuing (op : VOp) (gs gt : Word) : State := withCtx fun x => { x with vu := { x.vu with queue := [entry op gs gt] } }

/-- A change of core 0's context sets nothing before a unit that is to move, and enables no sink. -/
theorem rest_withCtx (f : Ctx → Ctx) : (withCtx f).silent ∧ (withCtx f).atRest := by
  have h : (withCtx f).cores = ((start 0).mapCore 0 fun c => { c with ctx := f c.ctx }).cores := rfl
  have l : ∀ g : Core → Ctx, ∀ e ∈ ((start 0).mapCore 0 fun c => { c with ctx := g c }).cores, e.2.late = [] := by
    intro g e he
    have : ((start 0).mapCore 0 fun c => { c with ctx := g c }).cores =
      [(0, { (start 0).core 0 with ctx := g ((start 0).core 0) }), (640, (start 0).core 640)] := rfl
    rw [this] at he
    simp only [List.mem_cons, List.not_mem_nil, or_false] at he
    obtain rfl | rfl := he <;> rfl
  refine ⟨fun i => ?_, rfl, rfl, rfl, fun e he => l _ e (h ▸ he)⟩
  have : ∀ i : Fin 17, (start 0).sinks[i].en = false := by decide +kernel
  exact this i

/-- The same for a state with another memory. -/
theorem rest_mem (s : State) (m : List Host.Cell) (h : s.silent ∧ s.atRest) : { s with mem := m }.silent ∧ { s with mem := m }.atRest := h

/-- With no channel out of order and no stripe pending, no access of the device's own has to wait. -/
theorem goes_of (s : State) (h : (!s.devHeld && s.hbm.pending.isEmpty && s.hbm.chans.isEmpty) = true) : s.deviceGoes := by
  simp only [Bool.and_eq_true, Bool.not_eq_true', List.isEmpty_iff] at h
  refine ⟨h.1.1, h.1.2, fun k ch => ?_⟩
  rw [Hbm.chan, h.2]
  simp [look]

/-- The same for a state whose stacks stand as at reset. -/
theorem goes_like (s : State) (h : s.hbm = State.reset.hbm) (d : s.devHeld = false) : s.deviceGoes := by
  have : State.reset.deviceGoes := goes_of _ (by decide +kernel)
  exact ⟨d, h ▸ this.2.1, h ▸ this.2.2⟩

/-! ### Witnesses: states and operands that meet the hypotheses of the statements -/

theorem witness_DecodeEncode : (Instr.add ⟨always, 3, 4, 5⟩).wellFormed = true ∧ encode (.add ⟨always, 3, 4, 5⟩) = some 0x00032140 ∧
    encode (.loop ⟨always, 3, 6, 31, 2047⟩) ≠ none ∧ encode (.barAw ⟨⟨7, 1⟩, 95, 31⟩) ≠ none ∧ encode (.tokWait ⟨always, 62⟩) ≠ none := by
  decide +kernel

theorem witness_DecodeWellFormed : word 0x00032140 (.add ⟨always, 3, 4, 5⟩) := by decide +kernel

theorem witness_StepKeepsCanonical : State.reset.canonical ∧ ∃ t, step State.reset = .next t := by
  refine ⟨⟨by decide +kernel, by decide +kernel⟩, ?_⟩
  have h : (match step State.reset with | .next _ => true | _ => false) = true := by decide +kernel
  revert h
  cases step State.reset <;> simp

/-- What the conditions of a step come to on a state, but for what the fetched word is. -/
def readyToStep (s : State) : Prop :=
  s.agenda = [] ∧ s.tripped = false ∧ s.canRun s.cur = true ∧ s.now.stalled = false ∧ s.now.requestLands = false ∧
  s.now.ctx.refilling = false ∧ s.now.breakAt s.now.ctx.pc = none ∧ (∀ e ∈ s.cores, e.2.late = []) ∧ s.now.late = [] ∧
  s.inTurn = true ∧ s.walksFine [s.now.ctx.pc.toNat]

theorem witness_StepRunsWord :
    (readyToStep (start 0x00032140) ∧ (start 0x00032140).fetch 0 = .got 0x00032140 (run (2 ^ 49) 32) ∧
      ∀ k ∈ run (2 ^ 49) 32, (start 0x00032140).meet k ≠ .corr) ∧
    (readyToStep (start 0x00032160) ∧ (start 0x00032160).fetch 0 = .got 0x00032160 (run (2 ^ 49) 32) ∧
      ∀ k ∈ run (2 ^ 49) 32, (start 0x00032160).meet k ≠ .corr) ∧
    word 0x00032140 (.add ⟨always, 3, 4, 5⟩) ∧ (decode 0x00032160).toOption = none := by
  unfold readyToStep State.walksFine
  decide +kernel

theorem witness_GuardFalse : ∃ (s : State) (i : Instr), guardOfWord i = some ⟨0, 1⟩ ∧ s.now.passes ⟨0, 1⟩ = false ∧
    s.now.sound ⟨0, 1⟩ [] ∧ s.cur ≠ Config.colophon :=
  ⟨start 0, .ldD ⟨⟨0, 1⟩, 3, 4, 0, 0⟩, rfl, by decide +kernel, ⟨by decide, by decide⟩, by decide +kernel⟩

theorem witness_GuardFalse_colophon : missingAtColophon (.ldD ⟨⟨1, 0⟩, 3, 4, 0, 0⟩) = false ∧ State.reset.cur = Config.colophon ∧
    State.reset.now.passes ⟨1, 0⟩ = false ∧ State.reset.now.sound ⟨1, 0⟩ [] :=
  ⟨by decide, by decide, by decide +kernel, ⟨by decide +kernel, by decide⟩⟩

/-- A loop engine of `n` stages, `k` iterations and a body of one word, at the PC. -/
def oneWordLoop (n : BitVec 3) (k : BitVec 28) (at_ : BitVec 29) (ends : Bool) : Loop :=
  ⟨true, n, at_, k, 0xFF0000400000, 1, ends, none, false⟩

/-- Core 0 with the loop as engine 2, the only active one. -/
def inLoop (l : Loop) : State := withCtx fun x => { x with order := [2], loops := x.loops.set 2 l }

theorem witness_SequencerMoves :
    ((start 0).now.ctx.order = []) ∧
    (let c := (inLoop (oneWordLoop 1 3 1 false)).now
     let l := c.ctx.loop 2
     c.ctx.order = [2] ∧ c.wanted = false ∧ l.has c.ctx.pc = true ∧ l.drain = none ∧ l.act = true ∧ l.exit = false ∧
       l.iter.toNat + 1 < l.count.toNat + l.s - 1 ∧ 2 ≤ l.s) ∧
    (let c := (inLoop (oneWordLoop 0 3 2 false)).now
     let l := c.ctx.loop 2
     c.ctx.order = [2] ∧ c.wanted = false ∧ l.has c.ctx.pc = true ∧ l.drain = none ∧ l.s = 1 ∧
       ¬ (l.act = true ∧ l.exit = false ∧ l.iter.toNat + 1 < l.count.toNat + l.s - 1)) ∧
    (let c := (inLoop (oneWordLoop 0 3 0 false)).now
     let l := c.ctx.loop 2
     c.ctx.order = [2] ∧ l.has c.ctx.pc = true ∧ l.start ≠ l.fin ∧ l.has l.start = true ∧ l.has 0 = false ∧ (0 : BitVec 48) ≠ l.fin) := by
  decide +kernel

theorem witness_AluWords : (∃ (s : State) (o : OpDAB), s.now.runs o.toGuard [bg o.a, bg o.b] ∧ s.now.rg o.b = -1 ∧
      (s.now.rg o.a).toInt = -2 ^ 63) ∧
    (∃ (s : State) (o : OpDA), s.now.runs o.toGuard [bg o.a]) ∧ (∃ (s : State) (o : OpDAI), s.now.runs o.toGuard [bg o.a]) ∧
    (∃ (s : State) (o : OpDAS), s.now.runs o.toGuard [bg o.a]) ∧ (∃ (s : State) (o : OpDI), s.now.runs o.toGuard [bg o.d]) :=
  ⟨⟨regs [(4, 0x8000000000000000), (5, -1)], ⟨always, 3, 4, 5⟩, runs_of _ _ _ (by decide +kernel), by decide +kernel⟩,
    ⟨start 0, ⟨always, 3, 4⟩, runs_of _ _ _ (by decide +kernel)⟩, ⟨start 0, ⟨always, 3, 4, -1⟩, runs_of _ _ _ (by decide +kernel)⟩,
    ⟨start 0, ⟨always, 3, 4, 63⟩, runs_of _ _ _ (by decide +kernel)⟩, ⟨start 0, ⟨always, 3, 0xFFFF⟩, runs_of _ _ _ (by decide +kernel)⟩⟩

theorem witness_PredicateWords : (∃ (s : State) (o : OpCmp), s.now.runs o.toGuard [bg o.a, bg o.b, .p]) ∧
    (∃ (s : State) (o : OpCmpi), s.now.runs o.toGuard [bg o.a]) ∧ (∃ (s : State) (o : OpP3), s.now.runs o.toGuard [.p]) ∧
    (∃ (s : State) (o : OpP2), s.now.runs o.toGuard [.p]) ∧ (∃ (s : State) (o : OpSel), s.now.runs o.toGuard [bg o.a, bg o.b, .p]) :=
  ⟨⟨start 0, ⟨always, 2, 3, 4, 5, 4⟩, runs_of _ _ _ (by decide +kernel)⟩, ⟨start 0, ⟨always, 3, 1, 4, -1⟩, runs_of _ _ _ (by decide +kernel)⟩,
    ⟨start 0, ⟨always, 1, 2, 3⟩, runs_of _ _ _ (by decide +kernel)⟩, ⟨start 0, ⟨always, 1, 0⟩, runs_of _ _ _ (by decide +kernel)⟩,
    ⟨start 0, ⟨always, 3, 4, 5, 2⟩, runs_of _ _ _ (by decide +kernel)⟩⟩

theorem witness_SpillWords : ∃ (s : State) (o : OpSpill), s.now.runs o.toGuard [.spill o.s.toNat] ∧ s.now.runs o.toGuard [bg o.r] ∧
    o.s = 511 ∧ o.w ≠ 0 :=
  ⟨start 0, ⟨always, 6, 1, 511⟩, runs_of _ _ _ (by decide +kernel), runs_of _ _ _ (by decide +kernel), rfl, by decide⟩

theorem witness_JumpWords :
    (∃ (s : State) (o : OpB), s.now.begins o.toGuard [] ∧ ∀ t, s.now.meetsLoops t = false) ∧
    (∃ (s : State) (o : OpA), s.now.begins o.toGuard [bg o.a] ∧ (s.now.rg o.a).toNat % 4 ≠ 0) ∧
    (∃ (s : State) (o : OpA), s.now.begins o.toGuard [bg o.a] ∧ (s.now.rg o.a).toNat = 2 ^ 48) ∧
    (∃ (s : State) (o : OpDA), s.now.begins o.toGuard [bg o.a] ∧ (s.now.rg o.a).toNat = 2 ^ 48 - 4 ∧ ∀ t, s.now.meetsLoops t = false) :=
  ⟨⟨start 0, ⟨always, -1⟩, begins_of _ _ _ (runs_of _ _ _ (by decide +kernel)), fun _ => meetsLoops_of _ _ (by decide +kernel)⟩,
    ⟨regs [(4, 2 ^ 48 + 2)], ⟨always, 4⟩, begins_of _ _ _ (runs_of _ _ _ (by decide +kernel)), by decide +kernel⟩,
    ⟨regs [(4, 2 ^ 48)], ⟨always, 4⟩, begins_of _ _ _ (runs_of _ _ _ (by decide +kernel)), by decide +kernel⟩,
    ⟨regs [(4, 2 ^ 48 - 4)], ⟨always, 31, 4⟩, begins_of _ _ _ (runs_of _ _ _ (by decide +kernel)), by decide +kernel,
      fun _ => meetsLoops_of _ _ (by decide +kernel)⟩⟩

/-- The hypotheses of a started loop: a free engine, no second pipelined loop, an end inside every active body, a small count. -/
def loopMayStart (s : State) (o : OpLoop) : Prop :=
  let x := s.now.ctx
  o.i ∉ x.order ∧ (∀ m ∈ x.order, (x.loop m).s < 2) ∧
  (∀ m ∈ x.order, (x.pc + 4).toNat + 4 * o.e.toNat ≤ (x.loop m).start.toNat + 4 * (x.loop m).len.toNat) ∧ (s.now.rg o.a).toNat < 2 ^ 28

theorem witness_LoopWords :
    (∃ (s : State) (o : OpLoop), s.now.runs o.toGuard [bg o.a, .loops] ∧ loopMayStart s o ∧ s.now.rg o.a = 0) ∧
    (∃ (s : State) (o : OpLoop), s.now.runs o.toGuard [bg o.a, .loops] ∧ loopMayStart s o ∧ (s.now.rg o.a).toNat = 2 ^ 28 - 1 ∧ o.s = 7) ∧
    (∃ (s : State) (o : OpLoop), s.now.runs o.toGuard [bg o.a, .loops] ∧ o.i ∈ s.now.ctx.order) ∧
    (∃ (s : State) (o : OpLoop), s.now.runs o.toGuard [bg o.a, .loops] ∧ o.i ∉ s.now.ctx.order ∧ o.s = 1 ∧ 2 ≤ (s.now.ctx.loop 2).s ∧
      2 ∈ s.now.ctx.order) ∧
    (∃ (s : State) (o : OpLoop), s.now.runs o.toGuard [bg o.a, .loops] ∧ o.i ∉ s.now.ctx.order ∧ o.s = 0 ∧ s.now.ctx.order = [2] ∧
      (s.now.ctx.loop 2).start.toNat + 4 * (s.now.ctx.loop 2).len.toNat < (s.now.ctx.pc + 4).toNat + 4 * o.e.toNat) ∧
    (∃ (s : State) (o : OpLoop), s.now.runs o.toGuard [bg o.a, .loops] ∧ s.now.ctx.order = [] ∧ (s.now.rg o.a).toNat = 2 ^ 28) ∧
    (∃ (s : State) (o : OpL), s.now.runs o.toGuard [.loops] ∧ o.l ∈ s.now.ctx.order) ∧
    (∃ (s : State) (o : OpL), s.now.runs o.toGuard [.loops] ∧ o.l ∉ s.now.ctx.order) := by
  unfold loopMayStart
  exact ⟨⟨start 0, ⟨always, 0, 0, 4, 1⟩, runs_of _ _ _ (by decide +kernel), by decide +kernel⟩,
    ⟨regs [(4, 2 ^ 28 - 1)], ⟨always, 3, 7, 4, 2047⟩, runs_of _ _ _ (by decide +kernel), by decide +kernel⟩,
    ⟨inLoop (oneWordLoop 0 3 0 false), ⟨always, 2, 0, 4, 1⟩, runs_of _ _ _ (by decide +kernel), by decide +kernel⟩,
    ⟨inLoop (oneWordLoop 1 3 0 false), ⟨always, 0, 1, 4, 1⟩, runs_of _ _ _ (by decide +kernel), by decide +kernel⟩,
    ⟨inLoop (oneWordLoop 0 3 0 false), ⟨always, 0, 0, 4, 1⟩, runs_of _ _ _ (by decide +kernel), by decide +kernel⟩,
    ⟨regs [(4, 2 ^ 28)], ⟨always, 0, 0, 4, 1⟩, runs_of _ _ _ (by decide +kernel), by decide +kernel⟩,
    ⟨inLoop (oneWordLoop 0 3 0 false), ⟨always, 2⟩, runs_of _ _ _ (by decide +kernel), by decide +kernel⟩,
    ⟨start 0, ⟨always, 2⟩, runs_of _ _ _ (by decide +kernel), by decide +kernel⟩⟩
theorem witness_RegisterWordsFrame : ∃ (s t : State), registersOf (.addi ⟨always, 4, 4, 1⟩) = some (4, 0) ∧
    exec (.addi ⟨always, 4, 4, 1⟩) s = .next t ∧ (∀ k, t ≠ s.raise s.cur k) ∧ (∀ g, t ≠ s.raiseBad g) ∧ s.now.ctx.pipelined = false := by
  have h1 : (State.reset.done (·.setG 4 1)).colo.trapped = false := rfl
  have raised : ∀ k, State.reset.done (·.setG 4 1) ≠ State.reset.raise State.reset.cur k := fun k h => by
    have h2 : (State.reset.raise State.reset.cur k).colo.trapped = true := rfl
    rw [h, h2] at h1
    exact absurd h1 (by decide)
  have bad : ∀ g, State.reset.done (·.setG 4 1) ≠ State.reset.raiseBad g := fun g h => by
    have h2 : (State.reset.raiseBad g).colo.trapped = true := rfl
    rw [h, h2] at h1
    exact absurd h1 (by decide)
  exact ⟨State.reset, State.reset.done (·.setG 4 1), rfl, rfl, raised, bad, by decide +kernel⟩

/-- A guard of p1 on a core whose predicates hold an error; and words of each kind of scalar state, each on a core where what it reads holds
an error. -/
theorem witness_StateErrors :
    let s := (start 0).mapCore 0 fun c => { c with bad := [.p], ctx := { c.ctx with tvec := 64 } }
    guardOfWord (.nop ⟨1, 0⟩) = some ⟨1, 0⟩ ∧ Bad.p ∈ s.now.bad ∧ s.cur < 640 ∧ s.mayEnter s.cur ∧ s.silent ∧
    ∀ x ∈ [(Instr.add ⟨always, 3, 4, 5⟩, bg 5), (.jrl ⟨always, 3, 4⟩, bg 4), (.addi ⟨always, 3, 4, 1⟩, bg 4), (.shli ⟨always, 3, 4, 1⟩, bg 4),
        (.lsh ⟨always, 4, 1⟩, bg 4), (.cmp ⟨always, 1, 1, 4, 5, 0⟩, .p), (.cmpi ⟨always, 1, 0, 4, 0⟩, bg 4), (.pand ⟨always, 1, 2, 3⟩, .p),
        (.pmov ⟨always, 1, 2⟩, .p), (.sel ⟨always, 3, 4, 5, 1⟩, .p), (.sld ⟨always, 3, 0, 511⟩, .spill 511), (.sst ⟨always, 4, 0, 511⟩, bg 4),
        (.loop ⟨always, 0, 0, 4, 1⟩, .loops), (.lexit ⟨always, 2⟩, .loops), (.csrr ⟨always, 3, 0x43⟩, .loops), (.tmark ⟨always, 4⟩, bg 4),
        (.ldD ⟨always, 3, 4, 0, 0⟩, bg 4), (.stD ⟨always, 3, 4, 0, 0⟩, bg 3), (.fld ⟨always, 3, 4, 0, 0, 0⟩, bg 4),
        (.fld2 ⟨always, 3, 4, 0, 0, 0, 0⟩, bg 4), (.amoAdd ⟨always, 3, 4, 5, 0, 0⟩, bg 5), (.amoCas ⟨always, 3, 4, 5, 0, 0⟩, bg 3),
        (.barArr ⟨always, 95, 0⟩, .bars), (.barWait ⟨always, 95, 4⟩, bg 4), (.tokWait ⟨always, 62⟩, .tok 62), (.tokTest ⟨always, 62, 1⟩, .tok 62),
        (.tokSnap ⟨always, 62, 3⟩, .tok 62), (.tokWaitv ⟨always, 62, 3⟩, bg 3), (.wmkAdd ⟨always, 4, 5⟩, bg 5), (.wmkTest ⟨always, 1, 4, 5⟩, bg 4)],
      let t := (start 0).mapCore 0 fun c => { c with bad := [x.2] }
      guardOfWord x.1 = some always ∧ (∃ b ∈ (scalarReads x.1).getD [], b ∈ t.now.bad) ∧ t.now.begins always [] ∧
        t.cur ≠ Config.colophon := by
  simp only [State.silent, State.mayEnter, State.atStop, Core.begins]
  decide +kernel

/-- At the end of a body with an error in the loop state: the words that go on in sequence, or to an address outside it. -/
theorem witness_StateErrors_loops :
    let s := (inLoop (oneWordLoop 0 3 0 false)).mapCore 0 fun c => { c with bad := [.loops] }
    s.now.passes ⟨0, 1⟩ = false ∧ s.cur ≠ Config.colophon ∧ s.now.begins always [bg 4, bg 5] ∧ s.now.begins always [] ∧
      s.now.meetsLoops (s.now.ctx.pc + 4) = true ∧ s.now.meetsLoops (s.now.ctx.pc + 2 ^ 25 - 4) = true ∧
      s.now.meetsLoops (s.now.ctx.pc - 2 ^ 25) = true ∧ s.now.meetsLoops s.now.ctx.pc = false := by
  simp only [Core.begins]
  decide +kernel

theorem witness_CsrWords : (∀ n ∈ [0, 4, 8, 0xB, 0x20, 0x30, 0x3F, 0x40, 0x43, 0x50, 0x5F], csrListed n ∧ ¬ csrNone n) ∧
    (∀ n ∈ [0x10, 0x15, 0x18, 0x1E, 0x70, 0x80, 0x87], csrListed n ∧ csrNone n ∧ ¬ csrOpen n) ∧
    (∀ n ∈ [9, 0xA, 0xB, 0x50, 0x5F], csrListed n ∧ csrOpen n) ∧
    (∀ n ∈ [5, 7, 0xC, 0x16, 0x1F, 0x21, 0x44, 0x4F, 0x60, 0x71, 0x88, 0x7FF], ¬ csrListed n) ∧
    (start 0).now.sys = false ∧ (sys id).now.sys = true ∧ (start 0).now.runs always [.loops] ∧ (sys id).now.runs always [bg 4] := by
  refine ⟨?_, ?_, ?_, ?_, by decide +kernel, by decide +kernel, runs_of _ _ _ (by decide +kernel), runs_of _ _ _ (by decide +kernel)⟩
  · unfold csrListed csrNone; decide
  · unfold csrListed csrNone csrOpen; decide
  · unfold csrListed csrOpen; decide
  · unfold csrListed; decide

/-- Core 0 in SYSTEM mode, in a RUNNING task with FAULTP `w`, with a store that has its data and one that has not. -/
def trapping (w : Word) : State :=
  pages fun s => part0 (fun q => { q with tasks := [{ aTask with faultp := w }] }) (s.mapCore 0 fun c => { c with ctx := { c.ctx with
    mode := .system, sq := [aStore 0 0 8 1, { aStore 1 0 8 1 with ready := false }] } })

theorem witness_SystemWords : (start 0).now.runs always [] ∧ (start 0).now.prqReq = false ∧ (start 0).now.prqSched = false ∧ (start 0).silent ∧
    (start 0).now.sys = false ∧ (start 0).cur ≠ Config.colophon ∧ (start 0).now.runs always [bg 4] ∧
    (State.reset.now.runs always [] ∧ State.reset.now.sys = true ∧ State.reset.cur = Config.colophon ∧ State.reset.silent) ∧
    (∀ w ∈ [(0 : Word), 0x30001, 0x30000], (trapping w).now.runs always [] ∧ (trapping w).now.sys = true ∧ (trapping w).cur ≠ Config.colophon ∧
      (((trapping w).part (trapping w).now.seat.part).task (trapping w).now.seat.tcb) = some { aTask with faultp := w }) ∧
    (let s := trapping 0x30000
     s.silent ∧ s.devPlaces 0 true 0x30000 128 = .ok ((run 0x30000 128).map .mem) ∧ s.devWaits 0 true 0x30000 128 = false ∧ s.writable 0x30000 128 ∧
       Memory.wf s.mem = true) := by
  unfold State.silent
  refine ⟨runs_of _ _ _ (by decide +kernel), by decide +kernel, by decide +kernel, by decide +kernel, by decide +kernel, by decide +kernel,
    runs_of _ _ _ (by decide +kernel), ⟨runs_of _ _ _ (by decide +kernel), by decide +kernel, by decide +kernel, by decide +kernel⟩, ?_,
    by decide +kernel, ok_of _ _ (by decide +kernel), by decide +kernel, ?_, by decide +kernel⟩
  · intro w hw
    simp only [List.mem_cons, List.not_mem_nil, or_false] at hw
    obtain rfl | rfl | rfl := hw <;> exact ⟨runs_of _ _ _ (by decide +kernel), by decide +kernel, by decide +kernel, by decide +kernel⟩
  · unfold State.writable State.clean; decide +kernel

/-- Core 0 with a handler at 0x100. -/
def handled (f : Ctx → Ctx) : State := withCtx fun x => { f x with tvec := 0x100 }

theorem witness_TrapEntry : (handled id).mayEnter 0 ∧
    (let s := (handled id).mapCore 0 fun c => { c with trap := some { cause := .stop } }
     (s.core 0).ctx.tvec ≠ 0 ∧ (s.core 0).trap = some { cause := .stop } ∧ (s.core 0).ctx.quiet = true) ∧
    (let s := (handled fun x => { x with engCe := { x.engCe with run := [aCopy .cpy .running] } }).mapCore 0 fun c =>
       { c with trap := some { cause := .stop } }
     (s.core 0).ctx.tvec ≠ 0 ∧ (s.core 0).trap = some { cause := .stop } ∧ (s.core 0).ctx.quiet = false) ∧
    ((sys id).core 0).sys = true ∧
    (((start 0).core 0).ctx.tvec = 0 ∧ ((start 0).core 0).trap = none ∧ (start 0).atStop 0) := by
  unfold State.mayEnter State.atStop
  decide +kernel

theorem witness_TrapWords : (handled id).mayEnter (handled id).cur ∧ (handled id).now.ctx.order = [] ∧ (handled id).now.runs always [bg 4] ∧
    (handled id).now.dbg.claim = false :=
  ⟨by unfold State.mayEnter State.atStop; decide +kernel, by decide +kernel, runs_of _ _ _ (by decide +kernel), by decide +kernel⟩

theorem witness_ReturnWord : (start 0).now.runs always [] ∧ (start 0).now.sys = false ∧
    (let s := sys fun x => { x with sq := [aStore 5 0 8 1], tseq := 5 }
     s.now.passes always = true ∧ s.now.sys = true ∧ ∃ e ∈ s.now.ctx.sq, s.now.ctx.tseq ≤ e.seq) ∧
    (let s := sys fun x => { x with sq := [aStore 4 0 8 1], tseq := 5 }
     s.now.passes always = true ∧ s.now.sys = true ∧ s.cur ≠ Config.colophon ∧ (∀ e ∈ s.now.ctx.sq, e.seq < s.now.ctx.tseq) ∧
       s.now.ctx.tcause.getLsbD 16 = false ∧ s.now.ctx.refilling = false) ∧
    (State.reset.now.runs always [] ∧ State.reset.now.sys = true ∧ State.reset.now.ctx.sq = [] ∧ State.reset.cur = Config.colophon ∧
      State.reset.silent) ∧
    (let s := sys fun x => { x with tcause := 0x11001, lq := [⟨0, 0, 0, [], 0, none, false, LoopTag.none⟩] }
     s.now.sys = true ∧ s.now.ctx.sq = [] ∧ s.now.ctx.tcause.getLsbD 16 = true ∧ s.now.ctx.tcause.toNat / 2 ^ 12 % 8 = 1 ∧
       s.now.ctx.lq = [⟨0, 0, 0, [], 0, none, false, LoopTag.none⟩]) ∧
    (let s := sys fun x => { x with tcause := 0x12001, vu := { x.vu with queue := [entry .vadd 0 0] } }
     s.now.ctx.tcause.getLsbD 16 = true ∧ s.now.ctx.tcause.toNat / 2 ^ 12 % 8 = 2 ∧ s.now.ctx.vu.queue = [entry .vadd 0 0]) ∧
    (let k := aCopy .cpy (.faulted { cause := .engine, q := 5 })
     let s := sys fun x => { x with tcause := 0x15007, engCe := ⟨[], [k], [], 9⟩ }
     s.now.ctx.tcause.getLsbD 16 = true ∧ EngQ.ofCode (s.now.ctx.tcause.toNat / 2 ^ 12 % 8) = some .ce ∧
       k.st = .faulted { cause := .engine, q := 5 } ∧ k ∈ (s.now.ctx.eng .ce).run ∧ (∀ r ∈ (s.now.ctx.eng .ce).run, r = k) ∧
       ((s.now.ctx.eng .ce).run ++ (s.now.ctx.eng .ce).released).filter (fun r => r.entry == k.entry) = [k]) := by
  unfold State.silent
  exact ⟨runs_of _ _ _ (by decide +kernel), by decide +kernel, by decide +kernel, by decide +kernel,
    ⟨runs_of _ _ _ (by decide +kernel), by decide +kernel, by decide +kernel, by decide +kernel, by decide +kernel⟩, by decide +kernel,
    by decide +kernel, by decide +kernel⟩

theorem witness_HeldQueueWords : State.reset.cur = Config.colophon ∧ missingAtColophon (.tokWait ⟨always, 1⟩) = true ∧
    (sys id).cur ≠ Config.colophon ∧ (sys id).now.sys = true ∧ (sys id).now.runs always [bg 4, bg 5, .tok 63] :=
  ⟨by decide, by decide, by decide +kernel, by decide +kernel, runs_of _ _ _ (by decide +kernel)⟩

/-- Core 0 at a place of the grid in a rectangle of 2^lw × 2^lh, with a window of scratchpad pages (R163, R169). -/
def seated (vx vy lw lh : Nat) (needs : Word) : State :=
  on fun c => { c with seat := { c.seat with vx := vx, vy := vy, lw := lw, lh := lh, needs := needs } }

/-- Page tables at HBM address 0, with nothing held (R183): doublewords and where they stand; the SPM mask allows bank 0. -/
def tables (l : List (Nat × Nat)) : State :=
  let s := start 0
  { s.setPart 0 { s.part 0 with tlb := [], banks0 := 1 } with mem := l.foldl (fun m e => Memory.setAll m e.1 (leBytes 8 e.2)) s.mem }

/-- The walk of R183 in those tables. -/
def readAt (s : State) (va : Nat) : List Nat × Option (Nat × Nat) := tableRead s va [(31, 17), (26, 5), (21, 5), (16, 5)] 0

theorem witness_AccessTraps : (start 0).now.runs always [bg 4, bg 5] ∧
    (isEffAddr ((regs [(4, self + 1)]).now.rg 4) (-64) 8 (self + 1 - 512) ∧ (self + 1 - 512).toNat % 8 ≠ 0) ∧
    (isEffAddr ((regs [(4, 0xFFFFFFFFFFFFFFFF)]).now.rg 4) 1 1 0 ∧ isEffAddr (2 ^ 48 : Word) 0 8 (2 ^ 48)) ∧
    (let ea : Word := 0xFF00004C0000
     ea.toNat % 4 = 0 ∧ ea.toNat < 2 ^ 48 ∧ (start 0).check 0 { rd := true, win := true } ea.toNat 4 = .trap .window 0) ∧
    (let s := { start 0 with hbm := { (start 0).hbm with crcBad := run 0 32 } }
     s.check 0 { rd := true } 0 1 = .trap .memerr 0) ∧
    (let s := pages fun s => { s with hbm := { s.hbm with crcBad := run 0 32 } }
     s.check 0 { rd := true, win := true } 0x1FFFC 4 = .ok (.window 0x1FFFC 0x1FFFC) ∧ s.regionAt s.now.seat.part 0x1FFFC = none) := by
  refine ⟨runs_of _ _ _ (by decide +kernel), ?_⟩
  unfold isEffAddr
  decide +kernel

/-- R163, R181, R367: an identifier that is the package's own, the windows of a 2 × 1 rectangle and of a core with pages 4 to 7, and the blocks of
the registers in either mode. -/
theorem witness_AccessTraps_ranges :
    (start 0).route 0 = true ∧ 0x800000000000 / 2 ^ 36 % 2 ^ 10 = 0 ∧
    (let t := ((seated 1 0 1 0 0).core 0).seat
     let at_ := fun m : Nat => (t.vx - t.vx % 2 + m % 2, t.vy - t.vy % 2 + m / 2)
     at_ 0 = (0, 0) ∧ at_ 1 = (1, 0) ∧ at_ 2 = (0, 1) ∧ at_ 15 = (1, 7) ∧ 0 < 2 ^ t.lw ∧ 1 < 2 ^ t.lw ∧ ¬ 1 < 2 ^ t.lh ∧ t.needs = 0) ∧
    (let t := ((seated 0 0 0 0 0x404).core 0).seat
     t.needs ≠ 0 ∧ t.needs.toNat % 2 ^ 8 * 4096 = 0x4000 ∧ t.needs.toNat / 2 ^ 8 % 2 ^ 8 * 4096 = 0x4000 ∧ t.vx + 40 * t.vy ≤ 0) ∧
    ((sys id).core 0).ctx.mode = .system ∧ ((start 0).core 0).ctx.mode = .task ∧ (0 : Nat) ≠ Config.colophon := by
  decide +kernel

/-- R183 to R186, R348: tables without errors with no leaf, with a malformed one, and with well-formed leaves of every type and target. -/
theorem witness_AccessTraps_pages :
    (let s := tables []
     (s.part (s.core 0).seat.part).tlb = [] ∧ (s.part (s.core 0).seat.part).rootNow.toNat = 0 ∧ readAt s 0x10000 = ([0], none)) ∧
    (∀ x ∈ [(0x10000, 31, [(0, 0x00E0000000000003)], [0]), (0x10000, 31, [(0, 0x01E0000000000003)], [0]), (0x10000, 31, [(0, 0x02E0000000000003)], [0]),
        (0x10000, 31, [(0, 0x03E0000000000003)], [0]), (0x10000, 31, [(0, 0x0020000000000003)], [0]), (0x10000, 31, [(0, 0x08E0000000000003)], [0]),
        (0x10000, 31, [(0, 0x08E0000080000003)], [0]),
        (0x10000, 31, [(0, 0x09E0000000000003)], [0]),
        (0xFE0000000000, 21, [(0xFE000, 0x100001), (0x100000, 0x200001), (0x200000, 0x0460000000000003)], [0xFE000, 0x100000, 0x200000]),
        (0xFE0000000000, 21, [(0xFE000, 0x100001), (0x100000, 0x200001), (0x200000, 0x0460000000200003)], [0xFE000, 0x100000, 0x200000])],
      let s := tables x.2.2.1
      (s.part (s.core 0).seat.part).tlb = [] ∧ (readAt s x.1).1 = x.2.2.2 ∧ (∃ e ∈ (readAt s x.1).2, e.2 = x.2.1 ∧ ¬ leafMalformed x.1 e.1 e.2) ∧
        ∀ k ∈ (readAt s x.1).1, k + 8 ≤ Config.hbmBytes ∧ s.lentOut k = false ∧ s.clean k 8) ∧
    ((readAt (tables [(0, 0x0CE0000000000003)]) 0x10000).2 = some (0x0CE0000000000003, 31) ∧ leafMalformed 0x10000 0x0CE0000000000003 31) ∧
    (let s := { tables [] with leases := (start 0).leases.set 0 { Lease.reset with st := 2, role := true, deadline := 5 } }
     let l := s.lease 0
     l.role = true ∧ (l.st = 2 ∨ l.st = 3) ∧ l.part = (s.core 0).seat.part ∧ s.time[0] < l.deadline.toNat ∧ (s.lease 1).role = false) := by
  unfold leafMalformed State.clean
  decide +kernel

/-- The state in which each form of load has its witness: it runs, nothing is under way, and the checks of its address pass. -/
def mayLoad (s : State) (b : BitVec 5) (ea : Word) (n : Nat) (a : AKind) (pl : Place) : Prop :=
  (s.now.passes always && s.now.bad.isEmpty) = true ∧ s.still ∧ isEffAddr (s.now.rg b) 0 n ea ∧ ea.toNat % n = 0 ∧ ea.toNat < 2 ^ 48 ∧
  s.check s.cur a ea.toNat n = .ok pl ∧ (match s.now.watch true false (run ea.toNat n) with | .go => true | _ => false) = true ∧
  s.walksFine (run ea.toNat n)

theorem witness_LoadWords : (∀ x ∈ [((1 : Nat), ({ rd := true } : AKind)), (2, { rd := true }), (4, { rd := true, win := true }), (8, { rd := true, s8 := true })],
      mayLoad (regs [(4, self)]) 4 self x.1 x.2 (.mem (2 ^ 49)) ∧ isEffAddr (self + BitVec.ofNat 64 (64 * x.1)) (-64) x.1 self ∧
        (regs [(4, self)]).clean (2 ^ 49) x.1 ∧ (regs [(4, self)]).lentOut (2 ^ 49) = false) ∧
    (let s := pages fun s => { (s.mapCore 0 (·.setG 4 0x10000)) with regions := [aRegion] }
     mayLoad s 4 0x10000 4 { rd := true, win := true } (.window 0x10000 0x10000) ∧ s.regionAt s.now.seat.part 0x10000 = some (aRegion, 0) ∧
       s.lentOut (aRegion.back 0) = false ∧ s.clean (aRegion.back 0) 32) ∧
    (let s := (sys id).mapCore 0 (·.setG 4 0xFFFF000213F8)
     mayLoad s 4 0xFFFF000213F8 8 { rd := true, s8 := true } (.mmio (0xFFFF00020000 + 8 * 639)) ∧ (s.core 639).prqReq = false ∧
       (s.core 639).prqSched = false ∧ (0 : Nat).testBit 2 = false ∧ ¬ draining (s.core 639)) ∧
    (let s := pages fun s => { (s.setPart 0 { s.part 0 with tlb := [(1, 16, 0x0860000000000003)] }).mapCore 0 (·.setG 4 0x10008) with
       leases := s.leases.set 0 { Lease.reset with st := 2, role := true, deadline := 5 } }
     mayLoad s 4 0x10008 8 { rd := true, s8 := true } (.lease 0 8)) := by
  unfold mayLoad draining isEffAddr State.clean State.still State.walksFine
  refine ⟨?_, ?_, ?_, ?_⟩ <;> decide +kernel

/-- Where a route reaches package 1, which is free (log 5), a load of its window leaves for it. -/
theorem witness_LoadWords_peer (f : Nat) (h : Config.routeTo f 1 = true) :
    { start 0 with free := f }.check 0 { rd := true, s8 := true } 0x801000000000 8 = .ok (.peer 0x801000000000) ∧
    0x801000000000 / 2 ^ 36 % 2 ^ 10 ≠ (start 0).pkgid.toNat := by
  refine ⟨?_, by decide +kernel⟩
  have r : { start 0 with free := f }.route 1 = true := by rw [State.route, h, Bool.or_true]
  have b : BitVec.ofNat 10 (bits 0x801000000000 45 36) = 1 := by decide
  have c : ¬ (0 : Nat) = Config.colophon := by decide
  simp only [State.check, b, r, if_neg c]
  rfl

theorem witness_StoreWords : ∀ x ∈ [((1 : Nat), ({ wr := true } : AKind)), (2, { wr := true }), (4, { wr := true, win := true }), (8, { wr := true, s8 := true })],
    (start 0).now.runs always [bg 4, bg 5] ∧ isEffAddr (self - BitVec.ofNat 64 (63 * x.1)) 63 x.1 self ∧
    self.toNat % x.1 = 0 ∧ self.toNat < 2 ^ 48 ∧ (start 0).check (start 0).cur x.2 self.toNat x.1 = .ok (.mem (2 ^ 49)) ∧
    (start 0).walksFine (run self.toNat x.1) ∧ (start 0).now.watch false true (run self.toNat x.1) = .go := by
  intro x hx
  refine ⟨runs_of _ _ _ (by decide +kernel), ?_⟩
  simp only [List.mem_cons, List.not_mem_nil, or_false] at hx
  unfold isEffAddr State.walksFine
  obtain rfl | rfl | rfl | rfl := hx <;> exact ⟨by decide, by decide, by decide, by decide +kernel, by decide +kernel, rfl⟩

/-- The colophon's store to ECCTL while the engine verifies, and the same store of 8 bytes when it does not (R358). -/
theorem witness_StoreWords_colophon :
    (let s := { State.reset with colo := { State.reset.colo with ecstat := 1 } }
     s.coloHolds s.now (.mmio 0xFFFFC0000300) = true ∧ s.check s.cur { wr := true, s8 := true } 0xFFFFC0000300 8 = .ok (.mmio 0xFFFFC0000300)) ∧
    State.reset.coloHolds State.reset.now (.mmio 0xFFFFC0000300) = false := by
  decide +kernel

theorem witness_StorePerforms : ∀ n ∈ [1, 8],
    let e := aStore 0 (2 ^ 49) n 0x1122334455667788
    let s := withCtx fun x => { x with sq := [e], seq := 1 }
    ∀ q ∈ e.pieces, (s.core 0).ctx.sq = [e] ∧ e.kind = .plain ∧ e.pieces = [q] ∧ q.place = .mem (2 ^ 49) ∧ q.en = true ∧ q.done = false ∧
      s.storeFree 0 e 0 q = true ∧ s.writable (2 ^ 49) q.n ∧ 0 < q.n ∧ Memory.wf s.mem = true := by
  unfold State.writable State.clean
  decide +kernel

theorem witness_AtomicWords : (start 0).onCore always [bg 4, bg 5, bg 6] ∧ (start 0).still ∧
    (let s := regs [(4, self + 8)]
     (s.now.rg 4).toNat % 8 = 0 ∧ (s.now.rg 4).toNat < 2 ^ 48 ∧
     s.check s.cur { rd := true, wr := true } (s.now.rg 4).toNat 8 = .ok (.mem (2 ^ 49 + 8)) ∧
     s.walksFine (run (s.now.rg 4).toNat 8) ∧ s.writable (2 ^ 49 + 8) 8 ∧ Memory.wf s.mem = true) ∧
    (start 0).now.watch true true (run (self.toNat + 8) 8) = .go ∧ (start 0).now.watch false true (run (self.toNat + 8) 8) = .go ∧
    ((regs [(4, self + 1)]).now.rg 4).toNat % 8 ≠ 0 :=
  ⟨onCore_of _ _ _ (by decide +kernel) (by decide +kernel), by unfold State.still; decide +kernel,
    by unfold State.walksFine State.writable State.clean; decide +kernel, rfl, rfl, by decide +kernel⟩

theorem witness_FenceWords : (start 0).now.runs always [] ∧ (start 0).still ∧
    (let s := withCtx fun x => { x with sq := [aStore 0 (2 ^ 49) 8 1], seq := 1 }
     ∀ e ∈ s.now.ctx.sq, e.seq < s.now.ctx.seq ∧ s.now.sys = false ∧ (1 : BitVec 16).getLsbD e.cls.toNat = true ∧
       ∃ q ∈ e.pieces, q.done = false ∧ q.en = true ∧ s.covers s.cur 0 (s.homeAt q.place) = true) :=
  ⟨runs_of _ _ _ (by decide +kernel), by unfold State.still; decide +kernel, by decide +kernel⟩

theorem witness_TapWords : (pages id).still ∧ (pages id).onCore always [bg 4] ∧
    (let s := pages fun s => { s with regions := [aRegion] }
     s.check s.cur { rd := true, win := true } 0x10000 4 = .ok (.window 0x10000 0x10000) ∧ s.regionAt s.now.seat.part 0x10000 = some (aRegion, 0) ∧
     s.lentOut (aRegion.back 0) = false ∧ aRegion.back 0 = 0x20000 ∧ s.clean 0x20000 32 ∧ s.walksFine (run 0x10000 4)) ∧
    ((pages id).check 0 { rd := true, win := true } 0x1FFFC 4 = .ok (.window 0x1FFFC 0x1FFFC) ∧ (pages id).regionAt 0 0x1FFFC = none) ∧
    (pages id).check 0 { rd := true, win := true } 0x30000 4 = .ok (.mem 0x30000) ∧
    (pages id).now.watch true false (run 0x10000 4) = .go :=
  ⟨by unfold State.still; decide +kernel, onCore_of _ _ _ (by decide +kernel) (by decide +kernel),
    by unfold State.clean State.walksFine; decide +kernel, by decide +kernel, by decide +kernel, rfl⟩

/-- A core with `n` entries in its VU queue. -/
def queued (n : Nat) : State :=
  withCtx fun x => { x with vu := { x.vu with queue := List.replicate n ⟨0, some .vadd, ⟨0, 0, 0, 0, 0, 0⟩, 0, 0, none, none, false, LoopTag.none⟩ } }

theorem witness_VectorHandOver : VOp.isMem .vfma = false ∧ ∀ n ∈ [0, 31, 32], (queued n).queues Guard.always [bg 17, bg 9] ∧
    (queued n).now.ctx.vu.queue.length = n := by
  refine ⟨rfl, fun n hn => ?_⟩
  simp only [List.mem_cons, List.not_mem_nil, or_false] at hn
  obtain rfl | rfl | rfl := hn <;>
    exact ⟨queues_of _ _ _ (by decide +kernel) (by decide +kernel) (by decide +kernel), by decide +kernel⟩

/-- Base 0xFF0000400000 in g4, and a modifier word of one row at a stride of 256 bytes in g5. -/
def rowAt : State := regs [(4, self), (5, 0x0000010000000000)]

/-- The addresses of that row's elements. -/
def rowAddr (j : Nat) : Nat := (BitVec.ofNat 64 (self.toNat + 0 * 256 + j * 4) : Word).toNat

theorem witness_VectorMemoryWords :
    rowAt.queues Guard.always [bg 4, bg 5] ∧ rowAt.now.ctx.vu.queue.length < 32 ∧ rowAt.now.ctx.lq.length < 16 ∧
    (∀ op ∈ [VOp.vld, .vst, .vldb, .vstadd, .vzero], VOp.isMem op = true ∧ elementBytes op (modOf op 0x0000010000000000).et = 4 ∧
      (modOf op 0x0000010000000000).rows = 1 ∧ (modOf op 0x0000010000000000).stride = 256) ∧
    (self + 2).toNat % 4 ≠ 0 ∧ 258 % 4 ≠ 0 ∧ 2 ^ 48 - 4 + 1 * 4 = 2 ^ 48 ∧
    (∀ a ∈ [({ rd := true, win := true } : AKind), { wr := true, win := true }, { rd := true, wr := true }], ∀ j < 64,
      rowAddr j < 2 ^ 48 ∧ rowAt.check rowAt.cur a (rowAddr j) 4 = .ok (.mem (2 ^ 49 + 4 * j))) ∧
    rowAt.walksFine (run (rowAddr 0) 256) ∧
    rowAt.now.watch true false ((run 0 64).flatMap fun j => run (rowAddr j) 4) = .go ∧
    rowAt.now.watch false true ((run 0 64).flatMap fun j => run (rowAddr j) 4) = .go ∧
    (rowAt.check rowAt.cur { rd := true, win := true } 0xFF00004BFFFC 4 = .ok (.mem (2 ^ 49 + 0xBFFFC)) ∧
      rowAt.check rowAt.cur { rd := true, win := true } 0xFF00004C0000 4 = .trap .window 0) ∧
    ((pages id).check 0 { rd := true, win := true } 0x10000 4 = .ok (.window 0x10000 0x10000) ∧ (pages id).regionAt 0 0x10000 = none) ∧
    (32 ≤ (queued 32).now.ctx.vu.queue.length ∧
      16 ≤ (withCtx fun x => { x with lq := List.replicate 16 ⟨0, 0, 0, [], 0, none, false, LoopTag.none⟩ }).now.ctx.lq.length) :=
  ⟨queues_of _ _ _ (by decide +kernel) (by decide +kernel) (by decide +kernel), by decide +kernel, by decide +kernel, by decide +kernel,
    by decide, by decide, by decide, by decide +kernel, by unfold State.walksFine; decide +kernel, go_of _ (by decide +kernel),
    go_of _ (by decide +kernel), by decide +kernel, by decide +kernel, by decide +kernel⟩

/-- A row of data at the head of the load queue, for every element or for the first alone, and a store's entry that waits for its data. -/
def rowData (n : Nat) : LEntry :=
  ⟨5, 0, 0, (List.range n).map fun j => ⟨self + BitVec.ofNat 64 (4 * j), .mem (2 ^ 49 + 4 * j), 4, true, BitVec.ofNat 64 j, true⟩, 0, none, false, LoopTag.none⟩
@[inherit_doc rowData] def rowStore : SEntry :=
  ⟨5, 0, .plain, (List.range 64).map fun j => ⟨self + BitVec.ofNat 64 (4 * j), .mem (2 ^ 49 + 4 * j), 4, true, 0, false⟩, false, 0, none, LoopTag.none⟩

theorem witness_VectorMemoryIssues :
    (∀ x ∈ [(VOp.vld, 64), (.vldb, 1)],
      let e := { entry x.1 self 0x0000010000000000 with load := some 5 }
      let s := withCtx fun y => { y with lq := [rowData x.2], vu := { y.vu with queue := [e] } }
      vuReady s 0 e [] 1 ∧ (s.core 0).ctx.lq = [rowData x.2] ∧ (rowData x.2).num = 5 ∧ (rowData x.2).fault = none ∧ (rowData x.2).dropped = false ∧
        (∀ q ∈ (rowData x.2).pieces, q.done = true) ∧ (rowData x.2).pieces.length = x.2 ∧ governs (s.core 0).ctx 0 false 63 = true ∧
        governs (s.core 0).ctx 1 false 63 = false ∧ (modOf x.1 0x0000010000000000).rows = 1) ∧
    (∀ op ∈ [VOp.vst, .vstadd, .vzero],
      let e := { entry op self 0x0000010000000000 with store := some 5 }
      let s := withCtx fun y => { y with sq := [aStore 4 0 8 1, rowStore], vu := { y.vu with queue := [e] } }
      vuReady s 0 e [] 1 ∧ (s.core 0).ctx.sq = [aStore 4 0 8 1] ++ rowStore :: [] ∧ rowStore.seq = 5 ∧ (aStore 4 0 8 1).seq ≠ 5 ∧
        rowStore.pieces.length = 64) := by
  unfold vuReady Win.quiet
  decide +kernel

theorem witness_VectorControlWords : (start 0).queues always [bg 4] ∧ (start 0).now.ctx.vu.queue = [] ∧ (start 0).now.ctx.vu.landing = false ∧
    (start 0).now.ctx.vu.fifo = [] ∧ (queued 1).now.ctx.vu.queue ≠ [] ∧
    (withCtx fun x => { x with vu := { x.vu with fifo := [7] } }).now.ctx.vu.fifo = [7] ∧
    (∃ v ∈ (issuing .vget 0 0).now.ctx.vu.queue, v.op = some .vget ∧ v.dropped = false) ∧
    ∀ v ∈ (issuing .vadd 0 0).now.ctx.vu.queue, v.op ≠ some .vget :=
  ⟨queues_of _ _ _ (by decide +kernel) (by decide +kernel) (by decide +kernel), by decide +kernel, by decide +kernel, by decide +kernel,
    by decide +kernel, by decide +kernel, by decide +kernel, by decide +kernel⟩

theorem witness_VuElements : vuReady (issuing .viadd 0 7) 0 (entry .viadd 0 7) [] 1 ∧ governs ((issuing .viadd 0 7).core 0).ctx 0 false 1023 = true ∧
    governs ((issuing .viadd 0 0x107).core 0).ctx (modOf .viadd 0x107).k (modOf .viadd 0x107).kn 0 = false ∧ (modOf .viadd 7).et = 7 ∧
    etSigned 7 = true ∧ etSigned 8 = false := by
  unfold vuReady Win.quiet
  decide +kernel

theorem witness_VuMasks : vuReady (issuing .vcmp 0 3) 0 (entry .vcmp 0 3) [] 1 ∧ (modOf .vcmp 3).et = 3 ∧ (∀ k : Fin 8, (modOf .vcmp (3 + k * 2 ^ 13)).cond = k) ∧ (modOf .vcmps 0x4001).et = 1 ∧
    vuReady (issuing .vcmps 0x7F81 0x4001) 0 (entry .vcmps 0x7F81 0x4001) [] 1 ∧ isNanCode 8 8 0x7F81 true ∧ isNanCode 8 8 0x7FC0 false ∧
    (∀ k : Fin 6, (modOf .kop (k * 2 ^ 13)).cond = k) ∧ vuReady (issuing .vget 0xF3F 0) 0 (entry .vget 0xF3F 0) [] 1 ∧
    ((issuing .vget 0xF3F 0).core 0).ctx.vu.fifo.length < 16 ∧ (0xF3F : Word).toNat / 2 ^ 8 % 16 * 64 + (0xF3F : Word).toNat % 64 = 1023 := by
  unfold vuReady Win.quiet isNanCode
  decide +kernel

theorem witness_VuMoves : vuReady (issuing .viota 0 0x200004) 0 (entry .viota 0 0x200004) [] 1 ∧ (modOf .viota 0x200004).axis = 2 ∧
    (modOf .viota 0x100003).axis = 1 ∧ (modOf .viota 4).axis = 0 ∧ (modOf .viota 4).et ≠ 0 ∧ ((63 + 65) % 64 = 0 ∧ (15 + 17) % 16 = 0) := by
  unfold vuReady Win.quiet
  decide +kernel

theorem witness_VuFloats : vuReady (issuing .vfma 0 2) 0 (entry .vfma 0 2) [] 1 ∧ (modOf .vfma 2).et = 2 ∧ (modOf .vadds 1).et = 1 ∧ (modOf .vmin 0).et = 0 ∧
    governs ((issuing .vfma 0 2).core 0).ctx 0 false 1023 = true ∧ governs ((issuing .vfma 0 0x102).core 0).ctx 1 false 0 = false ∧
    codeValue 24 8 0 = some 0 ∧ codeValue 24 8 0x7F800000 = none ∧ codeValue 11 5 0x7BFF = some 65504 ∧ codeValue 11 5 0xBC00 = some (-1) ∧
    codeValue 8 8 0x3F80 = some 1 ∧ codeValue 8 8 1 = some (2 ^ (-133 : Int)) ∧ isNanCode 24 8 0x7FC00000 false ∧ isNanCode 24 8 0x7F800001 true := by
  refine ⟨?_, by decide +kernel, by decide +kernel, by decide +kernel, by decide +kernel, by decide +kernel, ?_⟩
  · unfold vuReady Win.quiet; decide +kernel
  · norm_num [codeValue, isNanCode, Nat.testBit, Nat.shiftRight_eq_div_pow]

/-- An overflow and a tie: 65,520 and 2,049 in FP16. -/
theorem witness_VuFloats_rounding : overflows 11 5 .rne 65520 ∧ ¬ overflows 11 5 .rz 65520 ∧ ¬ overflows 11 5 .rne 2049 ∧
    codeValue 11 5 0x6800 = some 2048 ∧ codeValue 11 5 0x6801 = some 2050 := by
  norm_num [overflows, codeValue, Nat.testBit, Nat.shiftRight_eq_div_pow]

theorem witness_VuSpecials : vuReady (issuing .vlog2 0 0) 0 (entry .vlog2 0 0) [] 1 ∧
    governs ((issuing .vlog2 0 0).core 0).ctx 0 false 1023 = true ∧ codeValue 24 8 0x40A00000 = some 5 ∧ codeValue 24 8 0xC0A00000 = some (-5) ∧
    (1 : Rat) ≤ 5 / 4 ∧ (5 / 4 : Rat) < 2 ∧ |(5 : Rat)| = 5 / 4 * 2 ^ (2 : Int) ∧ ((-150 : Rat) ≤ 5 ∧ (5 : Rat) < 128) := by
  refine ⟨?_, by decide +kernel, ?_⟩
  · unfold vuReady Win.quiet; decide +kernel
  · norm_num [codeValue, Nat.testBit, Nat.shiftRight_eq_div_pow]

theorem witness_VuConversions : (∀ op ∈ [VOp.vcvt, .vpack, .vunpk, .vfix, .vflt, .vredr, .vredc],
      vuReady (issuing op 0 0) 0 (entry op 0 0) [] 1) ∧ governs ((issuing .vredr 0 0).core 0).ctx 0 false 1023 = true ∧
    (modOf .vcvt 0x10).et2 ≠ (modOf .vcvt 0x10).et ∧ (modOf .vpack 0xC).asMov = true ∧ (modOf .vpack 0x35).asMov = false ∧
    e4m3Value 0x7E = some 448 ∧ lg8Value 64 = some 1 ∧ codeValue 3 5 0x7B = some 57344 := by
  refine ⟨?_, by decide +kernel, by decide +kernel, by decide +kernel, by decide +kernel, ?_⟩
  · unfold vuReady Win.quiet; decide +kernel
  · norm_num [codeValue, e4m3Value, lg8Value, Nat.testBit, Nat.shiftRight_eq_div_pow]

/-- Core 0 of that task with barrier 5 bound to it alone, in arrival phase `ph` of the instance `i`. -/
def barred (ph : Nat) (owes : Option Nat) (i : BarInst) : State :=
  part0 (fun q => { q with tasks := [{ aTask with bars := [i] }] }) (withCtx fun x => { x with bars := [⟨5, 0, ph, owes⟩] })

theorem witness_BarrierWords :
    (on fun c => { c with seat := { c.seat with needs := 1 } }).onCore always [.bars, bg 4] ∧ needsBar 1 5 = false ∧ needsBar 0 95 = true ∧
    rectHolds (start 0).now.seat 0 = true ∧ rectHolds (start 0).now.seat 1 = false ∧
    (∀ b ∈ (start 0).now.ctx.bars, b.b ≠ 5) ∧ (¬ ∀ b ∈ (barred 0 none ⟨5, 0, 0, 0, 0⟩).now.ctx.bars, b.b ≠ 5) ∧
    (∀ x ∈ [(0, 0, 0), (1, 0, 0), (2, 0, 1), (3, 3, 0)],
      let s := barred x.1 none ⟨5, 0, x.2.1, 0, x.2.2⟩
      let b : BarBind := ⟨5, 0, x.1, none⟩
      s.now.ctx.bound 5 = some b ∧ ((s.part s.now.seat.part).task s.now.seat.tcb).isSome = true ∧ (s.bar s.cur b).o = x.2.1 ∧
      (s.bar s.cur b).cur < rectN 0 ∧ (s.bar s.cur b).nxt ≤ rectN 0 ∧ (b.ph = (s.bar s.cur b).o + 2 ∨ b.ph < (s.bar s.cur b).o + 2)) ∧
    (∀ q ∈ [0, 1], q < 2 ∧ 2 ≤ q + 2 ∧ q % 2 = q % 2) ∧
    ((barred 1 (some 0) ⟨5, 0, 0, 0, 0⟩).now.ctx.bound 5 = some ⟨5, 0, 1, some 0⟩) :=
  ⟨onCore_of _ _ _ (by decide +kernel) (by decide +kernel), by decide, by decide, by decide +kernel, by decide +kernel, by decide +kernel,
    by decide +kernel, by decide +kernel, by decide, by decide +kernel⟩

/-- Core 0 with ISS and DONE of token slot 1. -/
def withTok (iss dn : BitVec 16) : State := withCtx fun x => { x with tok := x.tok.set 1 ⟨iss, dn, []⟩ }

/-- R243's worked wrap: ISS 0x0001 and DONE 0xFFFF. -/
theorem witness_TokenWords :
    (withTok 1 0xFFFF).onCore always [.tok 1, bg 4] ∧ ((withTok 1 0xFFFF).now.ctx.tok[1]).iss = 1 ∧
    ¬ (((withTok 1 0xFFFF).now.ctx.tok[1]).dn.toNat + 2 ^ 16 - 1) % 2 ^ 16 < 2 ^ 15 ∧
    (((withTok 1 1).now.ctx.tok[1]).dn.toNat + 2 ^ 16 - 1) % 2 ^ 16 < 2 ^ 15 ∧
    (1 + 2 ^ 16 - 0xFFFF) % 2 ^ 16 < (3 + 2 ^ 16 - 0xFFFF) % 2 ^ 16 ∧ (0xFFFF + 2 ^ 16 - 0xFFFF) % 2 ^ 16 ≤ (1 + 2 ^ 16 - 0xFFFF) % 2 ^ 16 :=
  ⟨onCore_of _ _ _ (by decide +kernel) (by decide +kernel), by decide +kernel, by decide +kernel, by decide +kernel, by decide, by decide⟩

/-- A waymark at the start of core 0's scratchpad: R253's worked overshoot, TARGET 256, COUNT 200, GEN 7. -/
def marked : State :=
  let s := regs [(4, self), (5, 7)]
  { s with mem := Memory.setAll s.mem (2 ^ 49) (leBytes 4 256 ++ leBytes 4 200 ++ leBytes 4 7 ++ leBytes 4 0) }

theorem witness_WaymarkWords : marked.onCore always [bg 4, bg 5] ∧ ((regs [(4, self + 8)]).now.rg 4).toNat % 16 ≠ 0 ∧
    ((regs [(4, 0x10000)]).now.rg 4).toNat % 16 = 0 ∧
    checkQuire 0 marked.now.seat 0xFF00004C0000 16 = .trap .window 0 ∧
    (marked.now.rg 4).toNat % 16 = 0 ∧ (0xFF0000000000 ≤ self.toNat ∧ self.toNat < 0xFF0001000000) ∧
    checkQuire marked.cur marked.now.seat self.toNat 16 = .ok (.mem (2 ^ 49)) ∧ marked.still ∧ marked.now.watch true true (run self.toNat 16) = .go ∧
    (∀ j ∈ run (2 ^ 49) 16, marked.meet j = .fine) ∧ Memory.wf marked.mem = true ∧
    (marked.peek (2 ^ 49) 4 = 256 ∧ marked.peek (2 ^ 49 + 4) 4 = 200 ∧ marked.peek (2 ^ 49 + 8) 4 = 7 ∧ marked.peek (2 ^ 49 + 12) 4 = 0) ∧
    marked.silent ∧ arrivalOf 256 200 7 0 100 = (44, 8, 2 ^ 31) ∧ arrivalOf 256 44 8 (2 ^ 31) 212 = (0, 9, 2 ^ 31) :=
  ⟨onCore_of _ _ _ (by decide +kernel) (by decide +kernel), by decide +kernel, by decide +kernel, by decide +kernel, by decide +kernel, by decide,
    by decide +kernel, by unfold State.still; decide +kernel, go_of _ (by decide +kernel), by decide +kernel, by decide +kernel, by decide +kernel,
    by unfold State.silent; decide +kernel, by decide, by decide⟩

theorem witness_EngineIssue : (start 0).queues always [bg 4, bg 5, .tok 1] ∧ (∀ t ∈ consumed 0x0000BF81810000000000, Bad.tok t.toNat ∉ (start 0).now.bad) ∧
    descriptorBytes .cpy self = 32 ∧ descriptorBytes .cnest self = 64 ∧ descriptorBytes .fbind 0 = 0 ∧ (self + 16).toNat % 32 ≠ 0 ∧
    (self.toNat % 64 = 0 ∧ (0xFF0000400000 ≤ self.toNat ∧ self.toNat ≤ 0xFF00004BFFFF ∧ needsSpad (start 0).now.seat.needs 0 32 = true)) ∧
    needsSpad 0 0xBFFE0 64 = false ∧ ((2 ^ 15 - 1 : BitVec 16).toNat + 2 ^ 16 - 0) % 2 ^ 16 = 2 ^ 15 - 1 ∧
    ((start 0).now.ctx.eng .ce).queue.length < 32 ∧
    32 ≤ ((withCtx fun x => { x with engCe := { x.engCe with queue := List.replicate 32 (aCopy .cpy .queued) } }).now.ctx.eng .ce).queue.length :=
  ⟨queues_of _ _ _ (by decide +kernel) (by decide +kernel) (by decide +kernel), by decide +kernel, by decide, by decide, by decide, by decide,
    by decide +kernel, by decide +kernel, by decide, by decide +kernel, by decide +kernel⟩
/-- A started command of the ME or the CE. -/
def running (op : EngOp) (a b : Word) (r : Run) : Cmd := { aCopy op .running with a := a, b := b, run := { r with status := some (0, 0) } }

/-- The ME of core 0 with a queue and running commands. -/
def me (q r : List Cmd) : State := withCtx fun x => { x with engMe := ⟨q, r, [], 9⟩ }

theorem witness_MatrixEvents : (∀ q r, (me q r).silent) ∧
    (let k := { aCopy .mload .queued with snaps := [(1, 3)] }
     let s := (me [k] []).mapCore 0 fun c => { c with ctx := { c.ctx with tok := c.ctx.tok.set 1 ⟨3, 0, []⟩ } }
     ((s.core 0).ctx.eng .me).queue = [k] ∧ ∃ t ∈ k.snaps, 2 ^ 15 ≤ (((s.core 0).ctx.token t.1).dn.toNat + 2 ^ 16 - t.2.toNat) % 2 ^ 16) ∧
    (let k := { aCopy .mload .queued with a := self, b := 9 }
     let s := me [k] []
     (s.core 0).ctx.engMe.queue = [k] ∧ (s.core 0).mayStart .me = true ∧ k.ready (s.core 0).ctx = true ∧
       (∀ r ∈ (s.core 0).ctx.engMe.run, r.op ≠ .mload ∧ r.op ≠ .mswap) ∧ tileBad k = false ∧ k.a.toNat % 64 = 0) ∧
    (let k := { aCopy .mcfg .queued with b := 5 }
     let s := me [k] []
     (s.core 0).ctx.engMe.queue = [k] ∧ (s.core 0).mayStart .me = true ∧ k.ready (s.core 0).ctx = true ∧ k.b.toNat % 8 < 6) ∧
    (let k := running .mswap 0 0 Run.fresh
     let s := me [] [k]
     (s.core 0).ctx.cmd .me k.num = some k ∧ k.run.status.isSome = true ∧ (s.core 0).works .me = true ∧ (s.core 0).dbgHolds = false) ∧
    (let k := running .mstream self 0x3FF0003FF09 Run.fresh
     let s := me [] [k]
     let n := rowBytes (s.core 0).ctx.me.active.sp 9 false
     (s.core 0).ctx.streaming = some k ∧ k.run.status.isSome = true ∧ (s.core 0).works .me = true ∧ k.run.pos < k.b.toNat / 2 ^ 24 % 2 ^ 11 ∧
       k.b.toNat / 2 ^ 8 % 2 ^ 10 + k.run.pos = 1023 ∧ k.a.toNat % 4 = 0 ∧ inSelf (s.core 0).seat k.a.toNat n = true ∧
       (match s.engRead 0 k k.a.toNat n with | .ok _ _ => true | _ => false) = true ∧ (s.core 0).accErrs 1023 = [] ∧ k.run.rows = []) :=
  ⟨fun _ _ => (rest_withCtx _).1, by decide +kernel⟩

/-- A read whose bytes have all been read ahead. -/
theorem ahead_zeros (r : Run) (base size va n : Nat) (h : r.buf = (run base size).map (·, 0)) (h1 : base ≤ va) (h2 : va + n ≤ base + size) :
    r.ahead va n = some (List.replicate n 0) := by
  have look_run : ∀ (l : List Nat) a, a ∈ l → look (l.map (·, (0 : Byte))) a = some 0 := by
    intro l a
    induction l with
    | nil => simp
    | cons b t ih =>
      intro hm
      rw [List.map_cons, look]
      split
      · rfl
      · rename_i hne
        exact ih ((List.mem_cons.mp hm).resolve_left fun e => hne e.symm)
  have all : ∀ m i, base ≤ i → i + m ≤ base + size → ((List.range m).map (i + ·)).mapM (look r.buf) = some (List.replicate m 0) := by
    intro m
    induction m with
    | zero => intros; rfl
    | succ m ih =>
      intro i hi hm
      rw [List.range_succ_eq_map, List.map_cons, List.map_map, List.mapM_cons, h, look_run _ _ (by
        simp only [run, List.mem_map, List.mem_range]
        exact ⟨i - base, by omega, by omega⟩), ← h]
      have := ih (i + 1) (by omega) (by omega)
      rw [show ((i + ·) ∘ Nat.succ) = (i + 1 + ·) by funext x; simp only [Function.comp_apply]; omega, this]
      rfl
  exact all n va h1 h2

/-- A read of data that is there leaves the state as it is. -/
theorem engRead_ahead (s : State) (k : Cmd) (base size : Nat) (h : k.run.buf = (run base size).map (·, 0)) (hs : size % 4 = 0)
    (hb : base % 4 = 0) (hw : base + size ≤ 2 ^ 64) : ∃ l, s.engRead 0 k base size = .ok l s := by
  have all : ∀ l : List (Nat × Nat), (∀ x ∈ l, ∃ m, k.run.ahead x.1 x.2 = some m) → ∃ m, s.engPieces 0 k l = .ok m s := by
    intro l
    induction l with
    | nil => exact fun _ => ⟨_, rfl⟩
    | cons x t ih =>
      intro hx
      obtain ⟨m, hm⟩ := hx x (by simp)
      obtain ⟨n, hn⟩ := ih fun y hy => hx y (by simp [hy])
      exact ⟨m ++ n, by simp [State.engPieces, State.engPiece, hm, hn]⟩
  rw [State.engRead, if_pos ⟨hb, hs⟩]
  refine all _ fun x hx => ?_
  obtain ⟨i, hi, rfl⟩ := List.mem_map.mp hx
  rw [List.mem_range] at hi
  refine ⟨_, ahead_zeros k.run base size _ 4 h ?_ ?_⟩ <;> dsimp only <;> omega

/-- A stream of zero bits under a code of one symbol of one bit. -/
theorem inflate_ahead (s : State) (k : Cmd) (base size : Nat) (h : k.run.buf = (run base size).map (·, 0))
    (hw : base + size ≤ 0x800000000000) : ∀ (n va : Nat) (out : List Byte), base ≤ va → va + n ≤ base + size →
    ∃ l, s.inflate 0 k [(0, 1, 0)] ⟨0, 0, out, 8 * n, false⟩ va n = .ok l s := by
  intro n
  induction n with
  | zero => exact fun va out _ _ => ⟨_, rfl⟩
  | succ n ih =>
    intro va out h1 h2
    have bit : ∀ (m : Nat) (o : List Byte), Inflate.bit [(0, 1, 0)] ⟨0, 0, o, m + 1, false⟩ false = ⟨0, 0, 0 :: o, m, false⟩ := fun _ _ => rfl
    have byte : Inflate.byte [(0, 1, 0)] ⟨0, 0, out, 8 * (n + 1), false⟩ 0 = ⟨0, 0, List.replicate 8 0 ++ out, 8 * n, false⟩ := by
      have z : ∀ i, (0 : Byte).getLsbD i = false := fun i => by simp
      simp only [Inflate.byte, List.foldl_cons, List.foldl_nil, z, Nat.mul_add, Nat.mul_one, bit]
      rfl
    obtain ⟨l, hl⟩ := ih (va + 1) (List.replicate 8 0 ++ out) (by omega) (by omega)
    have there : (decide (va < 2 ^ 48) && translated va) = true := by
      simp only [translated, Bool.and_eq_true, Bool.or_eq_true, decide_eq_true_eq]
      omega
    refine ⟨l, ?_⟩
    rw [State.inflate, if_neg (by dsimp only; omega), there]
    simp only [State.engPiece, ahead_zeros k.run base size va 1 h h1 (by omega), List.replicate_one, List.foldl_cons, List.foldl_nil, byte,
      Nat.mod_eq_of_lt (show va + 1 < 2 ^ 64 by omega)]
    exact hl

/-- The WS of core 0 with a started command and a code table. -/
def ws (k : Cmd) (tb : List Byte) : State := withCtx fun x => { x with engWs := ⟨[], [k], [], 9⟩, ctab := some tb }

/-- A tile load and a stream with their bytes read ahead. -/
def loading : Cmd := running .mload self 9 { Run.fresh with buf := (run self.toNat 16384).map (·, 0) }
@[inherit_doc loading] def decoding : Cmd := running .wstream 0x30000 0x80000009 { Run.fresh with buf := (run 0x30000 2048).map (·, 0) }

theorem witness_MatrixResults : (∀ q r, (me q r).silent ∧ (me q r).atRest) ∧ (∀ k l m, { ws k l with mem := m }.silent ∧ { ws k l with mem := m }.atRest) ∧
    (let k := running .mgo self 9 { Run.fresh with c := List.replicate 6 1, ast := List.replicate 6 0, rst := List.replicate 6 0 }
     let s := me [] [k]
     (s.core 0).ctx.streaming = some k ∧ (s.core 0).works .me = true ∧ k.run.pos < k.run.c.prod ∧ inSelf (s.core 0).seat self.toNat 128 = true ∧
       rowBytes (s.core 0).ctx.me.active.sp 9 false = 128 ∧ (match s.engRead 0 k self.toNat 128 with | .ok _ _ => true | _ => false) = true ∧
       (s.core 0).accErrs 0 = []) ∧
    (let k := { aCopy .mmode .queued with b := 7 }
     let s := me [k] []
     (s.core 0).ctx.engMe.queue = [k] ∧ (s.core 0).mayStart .me = true ∧ k.ready (s.core 0).ctx = true) ∧
    (recordSize 9 false false = 16384 ∧ Plane.groupsOk ⟨true, 9, false, false, 0, #[]⟩ = true ∧
       (∀ r, let k := running .mload self 9 r
         ((me [] [k]).core 0).ctx.cmd .me k.num = some k ∧ ((me [] [k]).core 0).works .me = true ∧ ((me [] [k]).core 0).dbgHolds = false) ∧
       ∃ l, (me [] [loading]).engRead 0 loading self.toNat 16384 = .ok l (me [] [loading])) ∧
    (let s := ws decoding (1 :: List.replicate 255 0)
     (∀ r, let k := running .wstream 0x30000 0x80000009 r
       ((ws k []).core 0).ctx.cmd .ws k.num = some k ∧ ((ws k []).core 0).works .ws = true) ∧ tableCodes (1 :: List.replicate 255 0) = [(0, 1, 0)] ∧
       ∃ l, s.inflate 0 decoding [(0, 1, 0)] ⟨0, 0, [], 16384, false⟩ 0x30000 2048 = .ok l s) ∧
    (let k := running .wtab self 0 Run.fresh
     let s := { ws k [] with mem := Memory.setAll (start 0).mem (2 ^ 49) [1] }
     (s.core 0).ctx.cmd .ws k.num = some k ∧ (s.core 0).works .ce = true ∧ (s.core 0).dbgHolds = false ∧
       (match s.engRead 0 k self.toNat 256 with | .ok l _ => decide (l.filter (· ≠ 0) = [1]) | _ => false) = true) ∧
    (let k := running .mzero 0 0x7FF Run.fresh
     ((me [] [k]).core 0).ctx.cmd .me k.num = some k ∧ ((me [] [k]).core 0).works .me = true ∧ k.run.pos < k.b.toNat / 2 ^ 10 % 2 ^ 11 ∧
       k.b.toNat % 2 ^ 10 = 1023) ∧
    (let k := running .mdrain self 0x21000400 Run.fresh
     ((me [] [k]).core 0).ctx.cmd .me k.num = some k ∧ k.run.pos < k.b.toNat / 2 ^ 10 % 2 ^ 11 ∧ self.toNat % 2 ^ 20 + 256 ≤ 0xC0000 ∧
       (∀ j ∈ run (spadKey 0 0) 256, (me [] [k]).meet j = .fine) ∧ Memory.wf (me [] [k]).mem = true ∧ ((me [] [k]).core 0).accErrs 0 = []) ∧
    (let k := running .mdrain self 0x21000400 { Run.fresh with buf := (run self.toNat 8).map (·, 1) }
     let key := fun (e : Nat × Byte) => spadKey 0 (e.1 % 2 ^ 20)
     ((me [] [k]).core 0).ctx.cmd .me k.num = some k ∧ ((me [] [k]).core 0).works .ce = true ∧ ((k.run.buf.drop 4).take 4) ≠ [] ∧
       (k.run.buf.map key).Nodup ∧ ∀ e ∈ k.run.buf, (me [] [k]).meet (key e) = .fine) := by
  refine ⟨fun _ _ => rest_withCtx _, fun _ _ m => rest_mem _ m (rest_withCtx _), by decide +kernel, by decide +kernel,
    ⟨by decide, by decide, fun r => ⟨rfl, rfl, rfl⟩,
      engRead_ahead _ loading self.toNat 16384 (by rw [loading, running]) (by decide) (by decide) (by decide +kernel)⟩,
    ⟨fun r => ⟨rfl, rfl⟩, by decide +kernel, inflate_ahead _ decoding 0x30000 2048 (by rw [decoding, running]) (by decide +kernel) 2048 _ _ (by decide) (by decide)⟩,
    by decide +kernel, by decide +kernel, by decide +kernel, by decide +kernel⟩

/-- A copy descriptor with WE = 1 and its waymark at the start of core 0's scratchpad (R246). -/
def aDesc : List Byte := leBytes 8 0 ++ leBytes 8 0 ++ leBytes 4 64 ++ leBytes 4 0x10 ++ leBytes 8 self.toNat

/-- The CE of core 0 with one started command, and lay-by tiles. -/
def ce (k : Cmd) (l : List Tile) : State := { withCtx fun x => { x with engCe := ⟨[], [k], [], 9⟩ } with tiles := l }

/-- A tile of the quire of core 0 with tag 0 in slot `n`, for the members of `rx`. -/
def aTile (n : Nat) (tcb : Word) (rx : BitVec 4) : Tile := ⟨0, n, 0, tcb, 0, rx, [1, 2, 3, 4], []⟩

theorem witness_CopyEvents :
    (let k := running .cmc 0 0 { Run.fresh with desc := aDesc }
     (∀ l ∈ [[], [aTile 0 0 1], (List.range 16).map fun n => aTile n 1 1],
       ((ce k l).core 0).ctx.cmd .ce k.num = some k ∧ k.run.status.isSome = true ∧ k.run.parked = none ∧ ((ce k l).core 0).works .ce = true) ∧
     (∃ t ∈ [aTile 0 0 1], t.quire = quireNo 0 ∧ t.part = ((ce k []).core 0).seat.part ∧ t.tcb = ((ce k []).core 0).seat.tcb ∧
       t.tag.toNat = cTag k.run.desc) ∧
     (∀ n < 16, ∃ t ∈ (List.range 16).map fun n => aTile n 1 1, t.quire = quireNo 0 ∧ t.slot = n)) ∧
    (let k := { running .cacc 0 0 { Run.fresh with desc := aDesc } with st := .kept }
     let s := ce k [aTile 0 0 1, aTile 1 0 2]
     (s.core 0).ctx.cmd .ce k.num = some k ∧ k.run.parked = none ∧ (s.core 0).streams = true ∧ (aTile 0 0 1).bad = [] ∧
       (aTile 0 0 1).rx.getLsbD (memberNo (s.core 0).seat) = true ∧ (aTile 1 0 2).rx.getLsbD (memberNo (s.core 0).seat) = false) ∧
    (let k := running .cpy 0 0 { Run.fresh with desc := aDesc, done := List.range 25 }
     let s := { ce k [] with mem := marked.mem }
     (s.core 0).ctx.cmd .ce k.num = some k ∧ k.op ∈ [EngOp.cpy, .cnest, .cacc] ∧ (s.core 0).works .ce = true ∧ cWe k.run.desc = true ∧
       k.run.arrived + 100 ≤ 4 * k.run.done.length ∧ s.copyCheck 0 true (cAux k.run.desc) 16 = .ok (.mem (2 ^ 49)) ∧ isSpad (2 ^ 49) = true ∧
       (∀ j ∈ run (2 ^ 49) 16, s.meet j = .fine) ∧ Memory.wf s.mem = true ∧ s.peek (2 ^ 49) 4 = 256 ∧ ∀ i : Fin 17, s.sinks[i].en = false) := by
  decide +kernel

/-- A copy descriptor from 0x100 to 0x200 in core 0's own scratchpad, of 8 bytes, or of the rows of a mask at 0x300 (R246, R257). -/
def moveDesc (len : Nat) : List Byte := leBytes 8 (self.toNat + 0x100) ++ leBytes 8 (self.toNat + 0x200) ++ leBytes 4 len ++ leBytes 4 0 ++
  leBytes 8 (self.toNat + 0x300) ++ leBytes 4 1 ++ leBytes 4 1 ++ List.replicate 24 0

theorem witness_CopyMoves : (∀ k, (ce k []).silent ∧ (ce k []).atRest) ∧
    (∀ op ∈ [EngOp.cpy, .cnest],
      let k := running op 0 0 { Run.fresh with desc := moveDesc 8 }
      let s := ce k []
      (s.core 0).ctx.cmd .ce k.num = some k ∧ (s.core 0).works .ce = true ∧ k.geometry = true ∧ 1 < k.words ∧
        copyAddrs k 1 (self.toNat + 0x104) (self.toNat + 0x204) ∧ s.copyCheck 0 false (self.toNat + 0x104) 4 = .ok (.mem (2 ^ 49 + 0x104)) ∧
        s.copyCheck 0 true (self.toNat + 0x204) 4 = .ok (.mem (2 ^ 49 + 0x204)) ∧ s.clash 0 k 1 (.mem (2 ^ 49 + 0x204)) = false ∧
        (∀ e ∈ (s.core 0).ctx.engCe.run, e = k) ∧ s.clean (2 ^ 49 + 0x104) 4 ∧ s.lentOut (2 ^ 49 + 0x104) = false ∧ s.writable (2 ^ 49 + 0x204) 4 ∧ Memory.wf s.mem = true) ∧
    (∀ op ∈ [EngOp.cgat, .csct],
      let k := running op 0 0 { Run.fresh with desc := moveDesc 0x200008 }
      let s := ce k []
      (s.core 0).ctx.cmd .ce k.num = some k ∧ k.geometry = false ∧ fieldLE k.run.desc 0x10 4 / 2 ^ 16 = 32 ∧
        s.copyCheck 0 false (self.toNat + 0x300) 4 = .ok (.mem (2 ^ 49 + 0x300)) ∧ s.clean (2 ^ 49 + 0x300) 4 ∧ s.lentOut (2 ^ 49 + 0x300) = false ∧
        (let g := { k with run := { k.run with rows := [31], walk := { k.run.walk with started := true } } }
         g.geometry = true ∧ 1 < g.words)) ∧
    (let k := running .cpy 0 0 { Run.fresh with desc := moveDesc 8, done := [0, 1] }
     let s := ce k []
     (s.core 0).ctx.cmd .ce k.num = some k ∧ (∀ w < k.words, w ∈ k.run.done) ∧ cWe k.run.desc = false ∧ s.sealedAll 0 k = true ∧
       (s.core 0).dbgHolds = false ∧ (s.core 0).ctx.mpAhead = []) := by
  refine ⟨fun k => rest_withCtx fun x => { x with engCe := ⟨[], [k], [], 9⟩ }, ?_, ?_, by decide +kernel⟩
  · unfold copyAddrs State.writable State.clean; decide +kernel
  · unfold State.clean; decide +kernel

/-- The BANK queue of core 0 with one started command that has not settled, in a state. -/
def bank (k : Cmd) (f : State → State) : State :=
  pages fun s => f (s.mapCore 0 fun c => { c with ctx := { c.ctx with engBank := ⟨[], [k], [], 9⟩, fslots := c.ctx.fslots.set 1 { c.ctx.fslots[1] with bound := some 0x10000 } } })

/-- A descriptor of one cell whose homes are stack channels (PLACE 1), with CLEAR or not. -/
def cellDesc (clear : Bool) : List Byte :=
  leBytes 8 0x10000 ++ leBytes 8 0x20000 ++ leBytes 4 1 ++ leBytes 4 (if clear then 0x1001 else 1) ++ List.replicate 40 0

/-- A started BANK command. -/
def bankCmd (op : EngOp) (a b : Word) (r : Run) : Cmd := { aCopy op .running with a := a, b := b, run := r }

/-- A started `fbind` of that descriptor into slot 0. -/
def bindCmd (d : List Byte) : Cmd := bankCmd .fbind self 0 { Run.fresh with desc := d }
@[inherit_doc bindCmd] def binding (d : List Byte) (f : State → State) : State := bank (bindCmd d) f

/-- `n` regions of partition 0 whose cells stand behind that one at the same home. -/
def others (n : Nat) : List Region := (List.range n).map fun i => ⟨0, 0x11000 + 4 * BitVec.ofNat 64 i, [], [(0x11000 + 4 * i, 0x20020 + 32 * i)], 1, [], [], [], []⟩

/-- What holds of a started command of the BANK queue that has not settled. -/
def bankStarted (s : State) (k : Cmd) : Prop :=
  (s.core 0).ctx.cmd .bank k.num = some k ∧ (s.core 0).works .bank = true ∧ (s.core 0).dbgHolds = false ∧ s.silent ∧ s.atRest ∧ Memory.wf s.mem = true

/-- R209: an `fbind` whose checks pass, for a fresh region, one whose cell another region uses, a full home and a full queue, with CLEAR too
where its memory is in error; and for a region that stands, the same or another. -/
theorem witness_BankEvents_binds :
    (∀ clear ∈ [true, false],
      let d := cellDesc clear
      let k := bindCmd d
      let s := binding d id
      bankStarted s k ∧ k.a ≠ 0 ∧ ((s.core 0).ctx.fslots[0]).bound = none ∧
        k.run.desc = d ∧ dMalformed d = false ∧ dClear d = clear ∧
        s.regionWaits 0 d = false ∧ (List.range (dCells d)).mapM (s.cellKeys 0 d) = some [(0x10000, 0x20000)] ∧
        stacksOf [0x20000] = [0] ∧ s.hbm.queueFull 0 = false ∧ s.regionOf 0 0x10000 = none ∧ s.regions = [] ∧ s.cellWaits 0x20000 = false ∧
        s.writeErr (run 0x20000 32) = none) ∧
    (let d := cellDesc true
     ({ binding d id with hbm := { (binding d id).hbm with chans := (run 0 32).map (·, .failed) } }).writeErr (run 0x20000 32) ≠ none ∧
     (binding d fun s => { s with hbm := { s.hbm with queued := Vector.replicate 8 64 } }).hbm.queueFull 0 = true) ∧
    (let s := binding (cellDesc false) fun s => { s with regions := [⟨1, 0x50000, [], [(0x50000, 0x20000)], 1, [], [], [], []⟩] }
     s.regionOf 0 0x10000 = none ∧ (∃ q ∈ s.regions, q.uses (0x10000, 0x20000) = true) ∧ (s.regions.filter (·.atHome (homeNo 0x20000))).length < 64 ∧
       homeNo 0x20000 = 128) ∧
    (let s := binding (cellDesc false) fun s => { s with regions := others 64 }
     s.regionOf 0 0x10000 = none ∧ (∀ q ∈ s.regions, q.uses (0x10000, 0x20000) = false) ∧ 64 ≤ (s.regions.filter (·.atHome (homeNo 0x20000))).length) ∧
    (∀ x ∈ [(cellDesc true, true), ((cellDesc false).set 0x18 1, false)],
      let r : Region := { aRegion with desc := x.1 }
      let s := binding (cellDesc false) fun s => { s with regions := [r] }
      s.regionOf 0 0x10000 = some r ∧ r.atHome (homeNo 0x20000) = true ∧ sameRegion r.desc (cellDesc false) = x.2) ∧
    (let r : Region := { aRegion with cells := [(0x90000, 0xC00000000)] }
     let s := binding (cellDesc false) fun s => { s with regions := [r] }
     s.regionOf 0 0x10000 = some r ∧ r.atHome (homeNo 0x20000) = false ∧ (∀ q ∈ s.regions, some q = some r)) := by
  unfold bankStarted State.silent State.atRest
  decide +kernel

/-- R209, R217: an `fbind` at the head of its queue into an unbound slot, its descriptor at the start of core 0's scratchpad. -/
theorem witness_BankEvents_starts :
    let k : Cmd := { bankCmd .fbind self 0 Run.fresh with st := .queued }
    let s := bank k fun s => { s.mapCore 0 fun c => { c with ctx := { c.ctx with engBank := ⟨[k], [], [], 9⟩ } } with
      mem := Memory.setAll s.mem (2 ^ 49) (cellDesc true) }
    (s.core 0).ctx.engBank.queue = [k] ∧ (s.core 0).ctx.engBank.run = [] ∧ (s.core 0).mayStart .bank = true ∧ k.ready (s.core 0).ctx = true ∧
      k.a ≠ 0 ∧ ((s.core 0).ctx.fslots[0]).bound = none ∧ s.clean (spadKey 0 (k.a.toNat % 2 ^ 20)) 64 := by
  unfold State.clean
  decide +kernel

theorem witness_BankEvents :
    (let k := bankCmd .fbind 0 0 Run.fresh
     let s := bank k id
     bankStarted s k ∧ ((s.core 0).ctx.fslots[0]).bound = none) ∧
    (∀ n ∈ [1, 2],
      let k := bankCmd .fbind 0 1 Run.fresh
      let r := { aRegion with count := n }
      let s := bank k fun s => { s with regions := [r] }
      bankStarted s k ∧ ((s.core 0).ctx.fslots[1]).bound = some 0x10000 ∧ s.regionOf 0 0x10000 = some r ∧ r.count = n) ∧
    (let k := bankCmd .fbind self 1 Run.fresh
     let s := bank k id
     bankStarted s k ∧ ((s.core 0).ctx.fslots[1]).bound.isSome = true) ∧
    dMalformed ((cellDesc false).set 0 1) = true ∧
    (let d := (cellDesc false).set 10 4
     let s := binding d id
     dMalformed d = false ∧ s.regionWaits 0 d = false ∧ s.cellKeys 0 d 0 = none ∧ 0 < dCells d) ∧
    (let k := bankCmd .ftick 0 1 { Run.fresh with c := [0, 1], walk := { Run.fresh.walk with started := true } }
     let s := bank k fun s => { s with regions := [aRegion] }
     bankStarted s k ∧ s.tickRegion 0 k = some aRegion ∧ 0 ∈ tickCells k ∧ aRegion.back 0 % 32 = 0 ∧ (tickCells k).map aRegion.back = [0x20000] ∧
       s.clean (aRegion.back 0) 32 ∧ s.lentOut (aRegion.back 0) = false) ∧
    (∀ code ∈ [(0 : BitVec 4), 2],
      let k := bankCmd .walk self 0 { Run.fresh with c := [0x30000], walk := ⟨0, 3, 0, true, some code⟩, buf := (run 0 64).map (·, 7) }
      let s := bank k id
      bankStarted s k ∧ k.run.walk.status = some code ∧ k.run.walk.steps < 2 ^ 40 ∧ k.run.buf.length = 64 ∧ isHbm 0x30000 = true ∧
        isHbm (0x30000 + 127) = true ∧ s.writable 0x30000 (if code = 0 then 128 else 64) ∧ ∀ j ∈ run 0x30000 128, s.lentOut j = false) := by
  unfold bankStarted State.writable State.clean State.silent State.atRest
  refine ⟨?_, ?_, ?_, ?_, ?_, ?_, ?_⟩ <;> decide +kernel

/-- R217: BANK commands that are over, or not: with their stripes sealed and with one that waits for its seal. -/
theorem witness_BankEvents_ends :
    (∀ x ∈ [(EngOp.fbind, (0 : Word), (5 : BitVec 3), (1 : BitVec 4)), (.fbind, self, 5, 2), (.ftick, 0, 3, 0)],
      let k := bankCmd x.1 x.2.1 1 { Run.fresh with status := some x.2.2 }
      let s := bank k id
      bankStarted s k ∧ (k.op = .ftick ∨ k.a = 0 ∨ x.2.2.1 ≠ 0)) ∧
    (∀ clear ∈ [true, false], ∀ pend ∈ [[], [stripeIdOf 0x20000]],
      let k := bankCmd .fbind self 1 { Run.fresh with status := some (0, 0) }
      let r := { aRegion with desc := cellDesc clear, sat := [0x20000] }
      let s := bank k fun s => { s with regions := [r], hbm := { s.hbm with pending := pend } }
      (s.core 0).ctx.cmd .bank k.num = some k ∧ s.tickRegion 0 k = some r ∧ dClear r.desc = clear ∧
        ((∃ j ∈ run 0x20000 32, stripeIdOf j ∈ s.hbm.pending) ↔ pend ≠ [])) ∧
    (∀ x ∈ [(false, [], 0), (true, [], 0), (true, [0], 0), (true, [0], 1)],
      let k := bankCmd .ftick 0 1 { Run.fresh with c := [0, 1], done := x.2.1, arrived := x.2.2, walk := { Run.fresh.walk with started := x.1 } }
      let s := bank k fun s => { s with regions := [aRegion] }
      bankStarted s k ∧ s.tickRegion 0 k = some aRegion ∧ tickCells k = [0] ∧ s.hbm.pending = []) ∧
    (∀ pend ∈ [[], [stripeIdOf 0x30000]],
      let k := bankCmd .walk self 0 { Run.fresh with status := some (0, 0), c := [0x30000], walk := ⟨0, 3, 0, true, some 0⟩, buf := (run 0 64).map (·, 7) }
      let s := bank k fun s => { s with hbm := { s.hbm with pending := pend } }
      (s.core 0).ctx.cmd .bank k.num = some k ∧ ((∃ j ∈ run 0x30000 128, stripeIdOf j ∈ s.hbm.pending) ↔ pend ≠ [])) := by
  unfold bankStarted State.silent State.atRest
  decide +kernel

theorem witness_QueueEvents :
    (let q : Piece := ⟨self, .mem (2 ^ 49), 4, true, 0, false⟩
     let l : LEntry := ⟨0, 0, 0, [q], 0, none, false, LoopTag.none⟩
     let s := withCtx fun x => { x with lq := [l] }
     (s.core 0).ctx.lq = [l] ∧ (s.core 0).ctx.sq = [] ∧ (s.core 0).streams = true ∧ l.pieces[0]? = some q ∧ (s.core 0).late = [] ∧
       s.lentOut (2 ^ 49) = false ∧ ∀ j ∈ run (2 ^ 49) 4, s.meet j = .fine) ∧
    (let q : Piece := ⟨0x10000, .window 0x10000 0x10000, 4, true, 0xFFFFFFFF, false⟩
     let e : SEntry := ⟨0, 0, .plain, [q], true, 0, none, LoopTag.none⟩
     let s := (pages fun s => { s with regions := [aRegion] }).mapCore 0 fun c => { c with ctx := { c.ctx with sq := [e], seq := 1 } }
     (s.core 0).ctx.sq = [e] ∧ s.storeFree 0 e 0 q = true ∧ s.regionAt (s.core 0).seat.part 0x10000 = some (aRegion, 0) ∧
       aRegion.back 0 = 0x20000 ∧ (∀ j ∈ run 0x20000 32, s.meet j = .fine) ∧ s.lentOut 0x20000 = false ∧ Memory.wf s.mem = true ∧
       dXf aRegion.desc = 0 ∧ dTmode aRegion.desc = false ∧ s.peek 0x2001A 2 < 65535) ∧
    (let c := (on fun c => { c with phase := .halting, stop := true }).core 0
     c.phase = .halting ∧ c.sys = false ∧ c.stop = true ∧ c.trap = none) ∧
    (let c := (on fun c => { c with phase := .halting }).core 0
     c.haltDone = true ∧ c.stop = false) ∧ ((start 0).core 0).phase ≠ .halting ∧
    ((withCtx fun x => { x with sq := [aStore 0 0 1 1] }).core 0).ctx.sq ≠ [] := by
  decide +kernel

/-- The package with the state of channel 3 of stack 7 and some stale chunks. -/
def channel (c : ChanSt) (l : List Nat) : State := { start 0 with hbm := { (start 0).hbm with chans := [(7 * 32 + 3, c)], stale := l } }

theorem witness_HbmEvents : (∀ i : Fin 17, (start 0).sinks[i].en = false) ∧ (∀ i : Fin 17, (start 0).sinks[i].wait = []) ∧
    (start 0).hbm.chan 7 31 = .ok ∧ (∀ c < 32, (start 0).hbm.chan 7 c ≠ .retraining) ∧ (start 0).hbm.stale = [] ∧
    (channel .retraining []).hbm.chan 7 3 = .retraining ∧ (channel .retraining []).hbm.chan 7 15 = .ok ∧
    (let i := 7 * 50331648 + 6
     let s := { channel .retraining [] with hbm := { (channel .retraining []).hbm with pending := [i] } }
     i ∈ s.hbm.pending ∧ 16 * (6 % 2) + 6 / 2 % 16 = 3 ∧ (s.hbm.missing i).length ≤ 1 ∧ 0 ∉ s.hbm.pending ∧ s.unitWriting i = false ∧
       s.hbm.held (i / 50331648) (parityOf i) = false) ∧
    (let i := 7 * 50331648 + 6
     let s := { start 0 with hbm := { (start 0).hbm with chans := [(7 * 32 + 3, .retraining), (7 * 32 + 4, .failed)], pending := [i] } }
     i ∈ s.hbm.pending ∧ s.hbm.held (i / 50331648) (parityOf i) = true) ∧
    (let s := channel .ok [7 * 50331648 * 32 + 3]
     s.hbm.chan 7 3 = .ok ∧ (∃ id ∈ s.hbm.stale, id % 32 = 3 ∧ id / 32 / 50331648 = 7) ∧
       ∀ id ∈ s.hbm.stale, (s.hbm.missing (id / 32)).length ≤ 1) := by
  decide +kernel

/-- Partition 0 with a launch record at 0x30000, whose address stands in queue 0. -/
def launched : State :=
  part0 (fun q => { q with en := true, qbase := q.qbase.set 0 0x40000, qtail := q.qtail.set 0 1 })
    (pages fun s => { s with mem := Memory.setAll s.mem 0x40000 (leBytes 8 0x30000) })

/-- A READY task with record address 0x100 that partition 0 with one free core may start. -/
def aReady : Task := { aTask with tcb := 0x100, st := .ready, prio := 1, needs := 0x101 }

theorem witness_SchedulerEvents :
    (launched.part 0).admits = true ∧ (∀ i : Fin 4, i ≠ 0 → (launched.part 0).qhead[i] % 16 = (launched.part 0).qtail[i] % 16) ∧
    (launched.part 0).qhead[0] % 16 ≠ (launched.part 0).qtail[0] % 16 ∧ (∀ j ∈ run 0x40000 8, launched.meet j = .fine) ∧
    launched.peek 0x40000 8 = 0x30000 ∧
    (∀ a ∈ run 0x40000 8, a < Config.hbmBytes ∧ launched.lentOut a = false) ∧ launched.deviceGoes ∧ launched.devRead 0 0x30000 128 = .ok (List.replicate 128 0) ∧ (launched.part 0).tasks = [] ∧
    (∀ i : Fin 4, ((start 0).part 0).qhead[i] % 16 = ((start 0).part 0).qtail[i] % 16) ∧
    (let s := part0 (fun q => { q with en := true, cown := [41], tasks := [aReady] }) (start 0)
     (s.part 0).en = true ∧ (s.part 0).frz = false ∧ s.released = true ∧ s.colo.mwBusy = false ∧ aReady.claim = none ∧ s.deviceGoes ∧ (s.part 0).readyOrder = [aReady] ∧
       s.fit 0 aReady = some (1, 1) ∧ wbits aReady.spimg 55 48 = 0) ∧
    (let s := part0 (fun q => { q with en := true, cown := [0], tasks := [{ aTask with needs := 0x10000000000 }, aReady] }) (start 0)
     (s.part 0).readyOrder = [aReady] ∧ s.fit 0 aReady = none ∧ s.preemptAt 0 aReady = some (0, 0) ∧
       s.soleTask 0 0 = some { aTask with needs := 0x10000000000 } ∧ ((s.part 0).tasks.map Task.tcb).Nodup ∧ s.silent ∧ s.deviceGoes) ∧
    (let h := { aReady with bypass := 8, lw := 1 }
     let s := part0 (fun q => { q with en := true, cown := [41], tasks := [h] }) (start 0)
     (s.part 0).readyOrder = [h] ∧ s.fit 0 h = none ∧ h.claim = none ∧ 8 ≤ h.bypass ∧ ((s.part 0).tasks.map Task.tcb).Nodup) ∧
    (let s := part0 (fun q => { q with tasks := [aTask] }) (start 0)
     (s.part 0).task 0 = some aTask ∧ aTask.budget ≠ 0 ∧ aTask.hung = false ∧ aTask.budget * 4000 ≤ aTask.ran) ∧
    (let u := { aTask with ran := 3999 }
     ((part0 (fun q => { q with tasks := [u] }) (start 0)).part 0).task 0 = some u ∧ u.ran < u.budget * 4000) := by
  refine ⟨by decide +kernel, by decide +kernel, by decide +kernel, by decide +kernel, by decide +kernel, by decide +kernel,
    goes_of _ (by decide +kernel), ok_of _ _ (by decide +kernel), by decide +kernel, by decide +kernel,
    ⟨by decide +kernel, by decide +kernel, by decide +kernel, by decide +kernel, by decide +kernel, goes_of _ (by decide +kernel), by decide +kernel⟩,
    ⟨by decide +kernel, by decide +kernel, by decide +kernel, by decide +kernel, by decide +kernel, by unfold State.silent; decide +kernel,
      goes_of _ (by decide +kernel)⟩, by decide +kernel, by decide +kernel, by decide +kernel⟩

/-- Partition 0 holding the task on core 0, its ring enabled, with `n` entries in the ring of 64 and `w` waiting. -/
def ringed (en : Bool) (n : Nat) (w : List CqEntry) (t : Task) (ph : Phase) : State :=
  part0 (fun q => { q with cqEn := en, cqHead := n, cqWait := w, tasks := [t], cqBase := 0x50000, cqIen := true }) (on fun c => { c with phase := ph })

/-- A completion entry. -/
def anEntry : CqEntry := ⟨0x100, 0, 5, 0, false⟩

theorem witness_RetirementEvents :
    (∀ x ∈ [(true, 0), (true, 64), (false, 0)],
      let s := ringed x.1 x.2 [] aTask .halted
      (s.part 0).task 0 = some aTask ∧ aTask.st = .running ∧ s.allHalted aTask = true ∧ (s.part 0).cqEn = x.1 ∧ (s.part 0).cqWait = [] ∧
        (s.part 0).cqFull = decide (x.2 = 64)) ∧
    (let u := { aTask with st := .cancelled }
     ((ringed true 0 [] u .free).part 0).task 0 = some u ∧ u.st.final = true) ∧
    (∀ n ∈ [63, 64],
      let s := ringed true n [anEntry] aTask .running
      (s.part 0).cqWait = [anEntry] ∧ (s.part 0).cqFull = decide (n = 64) ∧ s.writeErr (run (0x50000 + 16 * (n % 64)) 16) = none ∧
        s.ringRefused (run (0x50000 + 16 * (n % 64)) 16) = false ∧ s.writeWaits (run (0x50000 + 16 * (n % 64)) 16) = false ∧
        s.hbm.rebuilt (run (0x50000 + 16 * (n % 64)) 16) = [] ∧ Memory.wf s.mem = true ∧ (s.part 0).cqIen = true) ∧
    (∀ en n w t ph, (ringed en n w t ph).deviceGoes) ∧
    (let s := { ringed true 0 [anEntry] aTask .running with hbm := { (start 0).hbm with pending := [stripeIdOf 0x50000] } }
     s.writeWaits (run 0x50000 16) = true ∧ s.ringRefused (run 0x50000 16) = false ∧ s.ringRefused (run (Config.hbmBytes - 8) 16) = true) :=
  ⟨by decide +kernel, by decide +kernel, by decide +kernel, fun _ _ _ _ _ => goes_like _ rfl rfl, by decide +kernel⟩

/-- Core 0 stopped for a pre-emption of its task. -/
def stopped : State := part0 (fun q => { q with tasks := [aTask] }) (on fun c => { c with preempt := true })

/-- The same task SUSPENDED, its context in the shadow. -/
def suspended : State :=
  part0 (fun q => { q with cown := [0], tasks := [{ aTask with st := .suspended }] })
    (on fun c => { c with phase := .free, shadow := { c.shadow with st := .held, ctx := some c.ctx, seat := c.seat, phase := .running } })

theorem witness_ContextEvents :
    (stopped.part 0).task 0 = some aTask ∧ stopped.swapReady 0 = true ∧ stopped.allStopped 0 aTask = true ∧ stopped.deviceGoes ∧
    (∀ r ∈ aTask.cores, r = 0) ∧
    (let s := part0 (fun q => { q with tasks := [aTask] }) (start 0)
     (s.part 0).task 0 = some aTask ∧ s.swapReady 0 = false) ∧
    (let u := { aTask with st := .suspended }
     (suspended.part 0).task 0 = some u ∧ u.cores.Nodup ∧ suspended.allHeld 0 u = true ∧ suspended.deviceGoes ∧
       (∀ r ∈ u.cores, r ∈ (suspended.part 0).cown) ∧
       (∀ r ∈ u.cores, (suspended.core r).phase = .free ∧ Bad.shadow ∉ (suspended.core r).bad ∧ (suspended.core r).shadow.wrote = [] ∧
         r ∉ suspended.heldBack 0 0 ∧ ((suspended.core r).shadow.ctx.map Ctx.refilling) = some false)) ∧
    ((suspended.core 0).shadow.sealView = false ∧ (suspended.core 639).shadow.st ≠ .held) ∧
    (let s := suspended.mapCore 0 fun c => { c with shadow := { c.shadow with sealView := true } }
     (s.core 0).shadow.sealView = true ∧ (s.core 0).shadow.st = .held ∧ (s.core 0).shadow.ctx.isSome = true) := by
  refine ⟨by decide +kernel, by decide +kernel, by decide +kernel, goes_like _ rfl rfl, by decide +kernel, by decide +kernel,
    ⟨by decide +kernel, by decide +kernel, by decide +kernel, goes_like _ rfl rfl, by decide +kernel⟩, by decide +kernel, by decide +kernel⟩

/-- A key that a table does not list. -/
theorem look_none {α : Type} : ∀ (l : List (Nat × α)) (r : Nat), (∀ x ∈ l, x.1 ≠ r) → look l r = none
  | [], _, _ => rfl
  | (k, v) :: t, r, h => by
    rw [look, if_neg (h (k, v) (by simp)), look_none t r fun x hx => h x (by simp [hx])]

/-- No shadow is LOADED in that state, whatever the core. -/
theorem witness_ContextEvents_loaded : ∀ r, (suspended.core r).shadow.st ≠ .loaded := by
  intro r
  by_cases h0 : r = 0
  · subst h0; decide +kernel
  · by_cases h1 : r = 640
    · subst h1; decide +kernel
    · have hc : suspended.cores.map (·.1) = [0, 640] := by decide +kernel
      have : look suspended.cores r = none := look_none _ _ fun x hx => by
        have : x.1 ∈ suspended.cores.map (·.1) := List.mem_map_of_mem hx
        rw [hc] at this
        simp only [List.mem_cons, List.not_mem_nil, or_false] at this
        omega
      simp only [State.core, this]
      decide +kernel

/-- Core 0 of partition 0, whose debug port is open. -/
def debugged (f : Dbg → Dbg) : State :=
  part0 (fun q => { q with cown := [0] }) { on fun c => { c with dbg := f c.dbg } with colo := { Colo.reset with dport := 1 } }

theorem witness_DebugEvents : (start 0).portOpen 0 = false ∧ (debugged id).portOpen 0 = true ∧ ((debugged id).core 0).dbg.stopped = false ∧
    (debugged id).portOpen 639 = false ∧
    (let c := (debugged fun d => { d with claim := true, stopped := true }).core 0
     c.dbg.stopped = true ∧ c.dbg.heldTok = [] ∧ c.dbg.heldMp = []) ∧
    (let s := debugged fun d => { d with claim := true, want := some (1, 0) }
     let c := s.core 0
     c.dbg.want = some (1, 0) ∧ c.dbg.stopped = false ∧ c.ctx.pipelined = false ∧ c.phase = .running ∧ c.trap = none ∧ c.preempt = false ∧
       c.ctx.vu.queue = [] ∧ ∀ q ∈ [EngQ.me, .ws, .ce, .bank], ∀ k ∈ (c.ctx.eng q).run, k.st ≠ .running) ∧
    ((queued 1).core 0).ctx.vu.queue ≠ [] ∧ ((queued 1).core 0).sys = false ∧ ∀ i : Fin 17, (debugged id).sinks[i].en = false := by
  decide +kernel

theorem witness_PartitionEvents : ((start 0).part 15).tlbGo = false ∧ ((part0 (fun q => { q with tlbGo := true }) (start 0)).part 0).tlbGo = true ∧
    ((start 0).part 0).cqEn = false ∧ ((ringed true 0 [] aTask .running).part 0).cqEn = true ∧ (0xFFFF00010120 + 15 * 0x1000) % 8 = 0 ∧
    (start 0).ownerOf 639 = none ∧ ((start 0).busyCore 0 = true ∧ (start 0).busyCore 41 = false) ∧ 0 ∈ ((debugged id).part 0).cown ∧
    (∀ e ∈ ([(0, [5]), (0, [])] : List (Nat × List Word)),
      let s := part0 (fun q => { q with cown := [0, 41], releasing := [e], tasks := [{ aTask with tcb := 5 }] }) (start 0)
      0 ∈ (s.part 0).cown ∧ s.busyCore 0 = true ∧ s.busyCore 41 = false ∧ (∃ r ∈ (s.part 0).releasing, r.1 = 0) ∧
        (∀ r ∈ (s.part 0).releasing, r.1 ≠ 41)) ∧
    (let s := part0 (fun q => { q with cown := [41], releasing := [(41, [5])] }) (start 0)
     41 ∈ (s.part 0).cown ∧ s.busyCore 41 = false ∧ ((s.part 0).task 5).isNone = true) ∧
    0xFFFF00010124 % 8 = 4 :=
  ⟨by decide +kernel, by decide +kernel, by decide +kernel, by decide +kernel, by decide, by decide +kernel, by decide +kernel, by decide +kernel,
    by decide +kernel, by decide +kernel, by decide⟩

/-- The package with the system trace sink as given, at TIME `t`. -/
def sink (k : Sink) (t : Nat) : State := { start 0 with sinks := (start 0).sinks.set 16 k, time := Vector.replicate 2 t }

theorem witness_TraceEvents :
    ((sink ⟨0x60000, 0x800, 0, 0, 0, 0, [], []⟩ 0).sinks[16]).en = false ∧
    (∀ n ∈ [0, 255],
      let s := sink ⟨0x60000, 0x801, n, 0, 0, 0, [], [2 ^ 40]⟩ (2 ^ 40 + 5)
      (s.sinks[16]).en = true ∧ (s.sinks[16]).sync = [2 ^ 40] ∧ (s.sinks[16]).wait = [] ∧ (s.sinks[16]).lost = 0 ∧
        (s.sinks[16]).head + 1 - (s.sinks[16]).tail ≤ 2 ^ (s.sinks[16]).log ∧ s.ringRefused (run (0x60000 + 16 * (n % 256)) 16) = false ∧
        s.writable (0x60000 + 16 * (n % 256)) 16 ∧ Memory.wf s.mem = true) ∧
    (let s := sink ⟨0x60000, 0x801, 254, 0, 9, 9, [], [2 ^ 40]⟩ (2 ^ 40 + 5)
     let k := s.sinks[16]
     k.en = true ∧ k.sync = [2 ^ 40] ∧ 0 < k.lost ∧ k.wait = [] ∧ k.head + 2 - k.tail ≤ 2 ^ k.log ∧
       ∀ n ∈ [k.head, k.head + 1], s.ringRefused (run (0x60000 + 16 * (n % 256)) 16) = false ∧ s.writable (0x60000 + 16 * (n % 256)) 16) ∧
    (2 ^ 40 + 5) / 2 ^ 40 = (2 ^ 40 + 5 + 8) / 2 ^ 40 ∧
    (let k := (sink ⟨0x60000, 0x801, 256, 1, 9, 9, [], []⟩ 5).sinks[16]
     k.en = true ∧ 0 < k.lost ∧ k.wait = [] ∧ k.head + 1 - k.tail ≤ 2 ^ k.log ∧ k.sync = []) ∧
    (let k := (sink ⟨0x60000, 0x801, 256, 0, 9, 9, [], []⟩ 5).sinks[16]
     2 ^ k.log ≤ k.head - k.tail) ∧
    ((start 0).core 1).phase ≠ .running ∧ ((start 0).core 0).phase = .running ∧ ((start 0).core 0).ctx.order = [] ∧
    (((on fun c => { c with tstall := [(.sq, 4)] }).core 0).tstall.find? (·.1 == .sq)) = some (.sq, 4) ∧ ((start 0).core 0).tbuf = [] := by
  unfold State.writable State.clean
  decide +kernel

/-- The package with lease entry 63 as given, at TIME `t`. -/
def leased (l : Lease) (t : Nat) : State := { start 0 with leases := (start 0).leases.set 63 l, time := Vector.replicate 2 t }

/-- An entry in a state. -/
def aLease (st : BitVec 3) (role wiping : Bool) (base deadline : Word) : Lease := { Lease.reset with st := st, role := role, wiping := wiping, base := base, deadline := deadline }

theorem witness_LeaseEvents :
    (∀ role ∈ [true, false], ∀ st : Fin 5,
      let s := leased (aLease st role false 0 5) 5
      s.leaseWaits 63 < 4 ∧ (s.lease 63).role = role ∧ (s.lease 63).st = st ∧ (s.lease 63).wiping = false ∧ (s.lease 63).deadline.toNat ≤ s.time[0]) ∧
    (let s := leased (aLease 3 false false 0 6) 5
     s.time[0] < (s.lease 63).deadline.toNat) ∧
    (let s := leased (aLease 3 true false 0 21) 5
     (s.lease 63).deadline.toNat ≤ s.time[0] + 16) ∧
    (let s := leased (aLease 3 true false 0 22) 5
     s.time[0] + 16 < (s.lease 63).deadline.toNat) ∧
    (0x5980000000 + 2 ^ 31 ≤ Config.hbmBytes ∧ Config.hbmBytes < 0x5A00000000 + 2 ^ 31) ∧
    ((leased (aLease 4 false true 0 0) 0).lease 63).wiping = true ∧
    4 ≤ (part0 (fun q => { q with cqWait := List.replicate 4 ⟨63, 2, 0, 0, false⟩ }) (start 0)).leaseWaits 63 := by
  decide +kernel

/-- An export map at HBM address 0x2000 whose first entry is `w`. -/
def exporting (w : Nat) : State := { start 0 with exbase := 0x2001, mem := Memory.setAll (start 0).mem 0x2000 (leBytes 8 w) }

theorem witness_FabricEvents :
    (start 0).exbase.getLsbD 0 = false ∧ (2 ^ 26 < 0xFFFFFFFFF % 2 ^ 26 + 2 ∧ 0xFFFFFFFFF / 2 ^ 26 % 2 ^ 10 = 1023) ∧
    (∀ x ∈ [(0xE0030000C0000000, false, true), (0xA003000000000000, false, false), (0xE0030000C0000001, true, true)],
      let s := exporting x.1
      let e := Export.of (w64 (s.peek 0x2000 8))
      s.exbase.toNat / 2 ^ 13 % 2 ^ 26 * 8192 = 0x2000 ∧ 0x2000 + 8 ≤ Config.hbmBytes ∧ s.exbase.getLsbD 0 = true ∧
        s.lentOut 0x2000 = false ∧ (∀ j ∈ run 0x2000 8, s.meet j = .fine) ∧ e.v = true ∧ e.bad = x.2.1 ∧ e.rd = x.2.2 ∧ e.rpart = 3 ∧ e.tgt = 0 ∧
        e.type = 0 ∧ (∀ j ∈ run (e.addr * 2 ^ 26) 8, s.lentOut j = false) ∧ ∀ j ∈ run (e.addr * 2 ^ 26) 8, s.meet j = .fine) ∧
    ({ exporting 0xE0030000C0000000 with leases := (start 0).leases.set 0 (aLease 1 false false 0xC0000000 0) } : State).lentOut 0xC0000000 = true ∧
    (let l := (leased (aLease 2 false false 0x80000000 100) 5).lease 63
     l.role = false ∧ l.st = 2 ∧ max 5 (98 + 1) < l.deadline.toNat ∧ ¬ max 5 (99 + 1) < l.deadline.toNat ∧ 2 ^ 31 - 8 + 8 ≤ 2 ^ 31 ∧
       ∀ j ∈ run 0x80000000 8, (leased (aLease 2 false false 0x80000000 100) 5).meet j = .fine) ∧
    (Config.hbmBytes < 0x5A00000000 + 1 ∧ 0x59FFFFFFFF + 1 ≤ Config.hbmBytes ∧ (start 0).meet 0x59FFFFFFFF = .fine ∧
      (start 0).lentOut 0x59FFFFFFFF = false ∧ Memory.wf (start 0).mem = true) ∧
    ((start 0).writable 0x59FFFFFFFE 2 ∧ (∀ a ∈ run 0x59FFFFFFFE 2, (start 0).lentOut a = false) ∧ 0x59FFFFFFFE + 2 ≤ Config.hbmBytes) ∧
    ((leBytes 3 0).length < 4 ∧ 256 < (List.replicate 257 (0 : Byte)).length) := by
  unfold State.writable State.clean
  decide +kernel

theorem witness_PowerEvents : (start 0).agenda = [] ∧ (start 0).released = true ∧
    (∀ cold ∈ [true, false],
      let s : State := { start 0 with released := false, cold := cold, coldest := -20 }
      s.released = false ∧ s.colo.fwbad = false ∧ s.colo.lc ≠ 6 ∧ s.cold = cold ∧ -25 ≤ s.coldest.toInt ∧ -20 ≤ s.coldest.toInt) ∧
    ((start 0).devHeld = false ∧ (∀ e ∈ (start 0).cores, e.2.late = []) ∧ (109 : BitVec 12).toInt < 110 ∧ 110 ≤ (110 : BitVec 12).toInt) ∧
    ((-26 : BitVec 12).toInt < -25 ∧ -25 ≤ (-21 : BitVec 12).toInt ∧ (-21 : BitVec 12).toInt < -20) := by
  decide +kernel

theorem witness_ColophonEvents_lifecycle :
    lifecycleMay (start 0).colo.lc.toNat 4 ∧ lifecycleMay 5 6 ∧ ¬ lifecycleMay (start 0).colo.lc.toNat 3 ∧ ¬ lifecycleMay 6 0 := by
  have h : (start 0).colo.lc.toNat = 3 := by decide +kernel
  rw [h]
  unfold lifecycleMay
  omega

theorem witness_ColophonEvents :
    (start 0).colo.mwBusy = false ∧ (start 0).mayWipe = true ∧
    (part0 (fun q => { q with en := true }) (start 0)).mayWipe = false ∧ (start 0).colo.hash = none ∧ (start 0).colo.ecstat ≠ 1 ∧
    (let c : Colo := { Colo.reset with ecstat := 1, qx := List.replicate 71 0 ++ [1], mwBusy := true, hash := some [] }
     c.ecstat = 1 ∧ c.mwBusy = true ∧ c.hash = some [] ∧ ∃ b ∈ c.qx.drop 66, b ≠ 0) ∧
    (let c : Colo := { Colo.reset with ecstat := 2, keysWiped := true, mwDone := true, lc := 4 }
     c.ecstat = 2 ∧ c.keysWiped = true ∧ c.mwDone = true ∧ (c.lc = 2 ∨ c.lc = 4 ∨ c.lc = 5)) ∧
    (0x1B0 % 8 = 0 ∧ 0x1B0 + 8 ≤ 0x200 ∧ ¬ 0x1B8 ≤ 0x1B0 ∧ (start 0).peek (coloData + 0xF160) 1 % 2 = 0 ∧ 0x200 < 0x200 + 8) ∧
    ((([1, 0xE0, 0, 0xFF] : List Byte).getD 1 0).toNat = 0xE0 ∧ (([1, 0xE0, 0, 0xFF] : List Byte).getD 3 0).toNat = 0xFF) := by
  decide +kernel

end Sys2Proof.Tests
end

section
/-!
PROOFS. The register file (R11): what a read of g[r], p[r] or k0 gives after a write, from the laws of Sys2Proof/Laws/Words.lean.
-/

namespace Sys2Proof.Machine

/-! ### One bit of a byte -/

theorem setBit8_getLsbD (x : BitVec 8) (i j : Nat) (v : Bool) (hj : j < 8) :
    (setBit8 x i v).getLsbD j = if j = i then v else x.getLsbD j := by
  have bit : ((1 : BitVec 8) <<< i).getLsbD j = decide (j = i) := by
    change (BitVec.twoPow 8 i).getLsbD j = decide (j = i)
    rw [BitVec.getLsbD_twoPow, Bool.eq_iff_iff, Bool.and_eq_true, decide_eq_true_eq, decide_eq_true_eq, decide_eq_true_eq]
    omega
  cases v with
  | true =>
    rw [setBit8, if_pos rfl, BitVec.getLsbD_or, bit]
    by_cases h : j = i <;> simp [h]
  | false =>
    rw [setBit8, if_neg Bool.false_ne_true, BitVec.getLsbD_and, BitVec.getLsbD_not, bit]
    by_cases h : j = i <;> simp [h, hj]

/-! ### General registers -/

/-- R11: a read of g[r] gives the value last written, and g0 reads zero. -/
theorem Ctx.rg_setG (x : Ctx) (d r : BitVec 5) (v : Word) :
    (x.setG d v).rg r = if r = 0 then 0 else if r = d then v else x.rg r := by
  by_cases h0 : r = 0
  · subst h0
    rfl
  · rw [if_neg h0]
    by_cases hd : r = d
    · subst hd
      rw [if_pos rfl, Ctx.rg_setG_self x r v h0]
    · rw [if_neg hd, Ctx.rg_setG_other x d r v hd]

/-- A write of a predicate leaves the general registers. -/
@[simp] theorem Ctx.rg_setP (x : Ctx) (d : BitVec 3) (b : Bool) (r : BitVec 5) : (x.setP d b).rg r = x.rg r := by
  simp only [Ctx.rg, Ctx.setP_g]

/-! ### Predicates -/

/-- R11: a read of p[r] gives the value last written, and p0 reads true. -/
theorem Ctx.rp_setP (x : Ctx) (d r : BitVec 3) (v : Bool) :
    (x.setP d v).rp r = if r = 0 then true else if r = d then v else x.rp r := by
  by_cases h0 : r = 0
  · subst h0
    rfl
  · by_cases hd : d = 0
    · subst hd
      rw [Ctx.setP_zero, if_neg h0, if_neg h0]
    · rw [Ctx.rp, Ctx.rp, Ctx.setP, if_neg hd, if_neg h0, if_neg h0, if_neg h0, setBit8_getLsbD _ _ _ _ r.isLt]
      exact if_congr BitVec.toNat_inj rfl rfl

/-- A write of a general register leaves the predicates. -/
@[simp] theorem Ctx.rp_setG (x : Ctx) (d : BitVec 5) (v : Word) (r : BitVec 3) : (x.setG d v).rp r = x.rp r := by
  simp only [Ctx.rp, Ctx.setG_p]

/-! ### Masks -/

/-- A write of k0 is discarded. -/
@[simp] theorem Vu.writeK_zero (u : Vu) (n l free : Nat) (wrote nv : MReg) : u.writeK 0 n l free wrote nv = u := rfl

/-- k0 reads all ones. -/
@[simp] theorem Vu.readK_zero (u : Vu) (n free : Nat) : u.readK 0 n free = Vector.replicate 16 (BitVec.allOnes 64) := rfl

/-! ### The register file -/

/-- Settles O8, from the laws of a read after a write of each register class and those of g0, p0 and k0. -/
theorem registerFile : Obligations.RegisterFile := by
  unfold Obligations.RegisterFile
  intro c
  refine ⟨fun d r v => c.ctx.rg_setG d r v, fun d r v => c.ctx.rp_setP d r v,
    fun d r v x => ⟨c.ctx.rp_setG v x r, fun b => c.ctx.rg_setP d b v⟩, ?_, ?_⟩
  · intro v b
    rw [Core.setG_ctx, Core.setP_ctx, Ctx.setG_zero, Ctx.setP_zero]
    exact ⟨rfl, rfl⟩
  · intro u n l f w k
    refine ⟨u.writeK_zero n l f w k, fun r => ?_⟩
    rw [Vu.readK_zero]
    exact Vector.getElem_replicate r.isLt

end Sys2Proof.Machine
end

section
/-!
PROOFS. Guards (R12, R31): every scalar word tests its guard before its own description, and with a false guard it only runs on.
-/

namespace Sys2Proof.Machine

/-! ### The test of a guard -/

/-- p[PG] xor PN (R31). -/
theorem Core.passes_eq_xor (c : Core) (g : Guard) : c.passes g = xor (c.rp g.g) (decide (g.n = 1)) := by
  rw [Core.passes, Bool.bne_eq_xor]
  rfl

/-- How a scalar word begins (R31, R306): an error in the predicate of its guard traps, a false guard skips the word, and `o` is what
it does else. -/
def State.underGuard (s : State) (g : Guard) (o : Out) : Out :=
  if g.g ≠ 0 ∧ s.now.bad.contains .p then .next (s.raiseBad g) else if !s.now.passes g then s.skip g else o

/-- With a false guard nothing of the word's own description is left. -/
theorem State.underGuard_skips (s : State) (g : Guard) (o : Out) (hg : s.now.passes g = false) (hs : s.now.sound g []) :
    s.underGuard g o = .next (s.done fun c => if g.g = 0 then c.warn wGuard else c) := by
  rw [State.underGuard, if_neg (Core.sound_p hs), hg]
  exact s.onTo_goes _ g _ (Core.sound_on hs)

/-! ### The words that begin with it -/

/-- How a word that the colophon has not begins: there it traps with ILLEGAL (R358). -/
def State.underGuardOfCore (s : State) (g : Guard) (o : Out) : Out :=
  if s.cur = Config.colophon then .next (s.raise s.cur (s.trapOf g { cause := .illegal })) else s.underGuard g o

theorem State.underGuardOfCore_core {s : State} (hc : s.cur ≠ Config.colophon) (g : Guard) (o : Out) :
    s.underGuardOfCore g o = s.underGuard g o := if_neg hc

/-- The test in the order in which `trap`, `halt`, `eret` and `yield` write it. -/
theorem State.ite_bad_eq_underGuard (s : State) (g : Guard) (o : Out) :
    (if s.now.bad.contains .p ∧ g.g ≠ 0 then .next (s.raiseBad g) else if !s.now.passes g then s.skip g else o) = s.underGuard g o :=
  if_congr and_comm rfl rfl

/-- Every scalar word that its core has begins with the test of its guard (R31, R358). -/
theorem exec_underGuard {i : Instr} {g : Guard} (h : guardOfWord i = some g) (s : State)
    (hc : missingAtColophon i = true → s.cur ≠ Config.colophon) : ∃ o, exec i s = s.underGuard g o := by
  cases i with
  -- words that every core and the colophon have
  | add o | sub o | and o | or o | xor o | andn o | shl o | shr o | sar o | rotl o | min o | max o | minn o | maxn o | mul o | mulh o
  | mulhn o | div o | divn o | rem o | remn o | addw o | subw o | mulw o | clz o | popc o | sxb o | sxh o | sxw o | zxb o | zxh o
  | zxw o | addi o | andi o | ori o | xori o | shli o | shri o | sari o | li o | lsh o | cmp o | cmpi o | pand o | por o | pxor o
  | pandn o | pnot o | pmov o | sel o | ldB o | ldBz o | ldH o | ldHz o | ldW o | ldWz o | ldD o | stB o | stH o | stW o | stD o
  | sld o | sst o | fence o | br o | call o | jr o | jrl o | loop o | lexit o | nop o | brk o | ifence o | tmark o | csrr o | csrw o =>
    obtain rfl := Option.some.inj h
    exact ⟨_, rfl⟩
  -- words that the colophon has not (R358)
  | fld o | fld2 o | amoAdd o | amoAnd o | amoOr o | amoXor o | amoMin o | amoMax o | amoSwp o | amoCas o | amoMinn o | amoMaxn o
  | barInit o | barArr o | barWait o | barAw o | tokWait o | tokTest o | tokSnap o | tokWaitv o | wmkInit o | wmkWait o | wmkAdd o
  | wmkGen o | wmkTest o | mload o | mswap o | mcfg o | mgo o | mstream o | mdrain o | mzero o | mmode o | wtab o | wstream o | cpy o
  | cnest o | cmc o | cacc o | cgat o | csct o | cstage o | fbind o | ftick o | walk o | vfence o | vbusy o | vmode o | vtake o =>
    obtain rfl := Option.some.inj h
    exact ⟨_, State.underGuardOfCore_core (hc rfl) _ _⟩
  -- words that end in a way of their own (R75, R76, R77, R81)
  | trap o | halt o | eret o | yield o =>
    obtain rfl := Option.some.inj h
    exact ⟨_, s.ite_bad_eq_underGuard _ _⟩
  -- vector words and events
  | _ => exact nomatch h

/-! ### A word whose guard is false -/

/-- Settles O9: every scalar word begins with the test of its guard, and a false guard ends it there. -/
theorem guardFalse : Obligations.GuardFalse := by
  unfold Obligations.GuardFalse
  refine ⟨Core.passes_eq_xor, fun s i g hi hg hs hc => ?_⟩
  obtain ⟨o, ho⟩ := exec_underGuard hi s hc
  rw [ho, s.underGuard_skips g o hg hs]

end Sys2Proof.Machine
end

section
/-!
PROOFS. The ALU group (R50 to R54): the value of each word's function in terms of integers and bits, and from it the word's result.
-/

namespace Sys2Proof.Machine

/-! ### Sums, differences and products -/

/-- (a - b) + b is a again, modulo 2^64. -/
theorem sub_toNat_add (a b : Word) : ((a - b).toNat + b.toNat) % 2 ^ 64 = a.toNat := by
  rw [← BitVec.toNat_add, BitVec.sub_add_cancel]

/-- The model's shift by 64, whose count is read as an integer where Mathlib is in scope, is the shift by a natural number. -/
theorem mulHighS_eq (a b : Word) : mulHighS a b = BitVec.ofInt 64 ((a.toInt * b.toInt) >>> (64 : Nat)) := by
  rw [mulHighS]
  cases a.toInt * b.toInt with
  | ofNat m => rfl
  | negSucc m => rfl

/-- The high half of a signed product fits a word. -/
theorem mulHighS_toInt (a b : Word) : (mulHighS a b).toInt = a.toInt * b.toInt / 2 ^ 64 := by
  have low : -2 ^ 126 ≤ a.toInt * b.toInt := BitVec.le_toInt_mul_toInt
  have high : a.toInt * b.toInt ≤ 2 ^ 126 := BitVec.toInt_mul_toInt_le
  rw [mulHighS_eq, Int.shiftRight_eq_div_pow]
  exact BitVec.toInt_ofInt_eq_self (by decide) (by omega) (by omega)

/-- The high half of an unsigned product fits a word. -/
theorem mulHighU_toNat (a b : Word) : (mulHighU a b).toNat = a.toNat * b.toNat / 2 ^ 64 :=
  Nat.mod_eq_of_lt (Nat.div_lt_of_lt_mul (Nat.mul_lt_mul'' a.isLt b.isLt))

/-! ### The smaller and the larger -/

theorem minS_toInt (a b : Word) : (if a.slt b then a else b).toInt = min a.toInt b.toInt := by
  simp only [apply_ite BitVec.toInt, BitVec.slt_iff_toInt_lt]
  split <;> omega

theorem maxS_toInt (a b : Word) : (if a.slt b then b else a).toInt = max a.toInt b.toInt := by
  simp only [apply_ite BitVec.toInt, BitVec.slt_iff_toInt_lt]
  split <;> omega

theorem minU_toNat (a b : Word) : (if a.ult b then a else b).toNat = min a.toNat b.toNat := by
  simp only [apply_ite BitVec.toNat, BitVec.ult_iff_lt, BitVec.lt_def]
  split <;> omega

theorem maxU_toNat (a b : Word) : (if a.ult b then b else a).toNat = max a.toNat b.toNat := by
  simp only [apply_ite BitVec.toNat, BitVec.ult_iff_lt, BitVec.lt_def]
  split <;> omega

/-! ### Extensions (R28) -/

/-- The low `n` bits of the integer `m`, sign-extended, are `m` balanced modulo 2^n. -/
theorem sext_ofInt_toInt (m : Int) {n : Nat} (hn : n ≤ 64) : (sext (BitVec.ofInt 64 m) n).toInt = m.bmod (2 ^ n) := by
  have hd : ((2 ^ n : Nat) : Int) ∣ ((2 ^ 64 : Nat) : Int) := Int.natCast_dvd_natCast.mpr (Nat.pow_dvd_pow 2 hn)
  calc (sext (BitVec.ofInt 64 m) n).toInt
      = ((BitVec.ofInt 64 m).toNat : Int).bmod (2 ^ n) := by rw [sext, BitVec.toInt_signExtend_of_le hn, BitVec.toInt_setWidth]
    _ = (m % (2 ^ 64 : Nat)).bmod (2 ^ n) := by
      rw [BitVec.toNat_ofInt, Int.toNat_of_nonneg (Int.emod_nonneg m (by decide))]
    _ = m.bmod (2 ^ n) := by rw [← Int.emod_bmod, Int.emod_emod_of_dvd m hd, Int.emod_bmod]

theorem ofInt_natCast_toNat (a : Word) : BitVec.ofInt 64 a.toNat = a := by
  rw [BitVec.ofInt_natCast, BitVec.ofNat_toNat, BitVec.setWidth_eq]

theorem sext_toInt (a : Word) {n : Nat} (hn : n ≤ 64) : (sext a n).toInt = (a.toNat : Int).bmod (2 ^ n) := by
  rw [← sext_ofInt_toInt _ hn, ofInt_natCast_toNat]

theorem zext_toNat (a : Word) {n : Nat} (hn : n ≤ 64) : (zext a n).toNat = a.toNat % 2 ^ n := by
  rw [zext, BitVec.toNat_setWidth_of_le hn, BitVec.toNat_setWidth]

theorem sext_add_toInt (a b : Word) : (sext (a + b) 32).toInt = ((a.toNat + b.toNat : Nat) : Int).bmod (2 ^ 32) := by
  rw [← sext_ofInt_toInt _ (by decide), Int.natCast_add, BitVec.ofInt_add, ofInt_natCast_toNat, ofInt_natCast_toNat]

theorem sext_mul_toInt (a b : Word) : (sext (a * b) 32).toInt = ((a.toNat * b.toNat : Nat) : Int).bmod (2 ^ 32) := by
  rw [← sext_ofInt_toInt _ (by decide), Int.natCast_mul, BitVec.ofInt_mul, ofInt_natCast_toNat, ofInt_natCast_toNat]

theorem sext_sub_toInt (a b : Word) : (sext (a - b) 32).toInt = ((a.toNat : Int) - b.toNat).bmod (2 ^ 32) := by
  rw [← sext_ofInt_toInt _ (by decide), Int.sub_eq_add_neg, BitVec.ofInt_add, BitVec.ofInt_neg, ofInt_natCast_toNat,
    ofInt_natCast_toNat, BitVec.sub_eq_add_neg]

/-! ### Shifts and rotates -/

theorem shiftLeft_toNat (a : Word) (n : Nat) : (a <<< n).toNat = a.toNat * 2 ^ n % 2 ^ 64 := by
  rw [BitVec.toNat_shiftLeft, Nat.shiftLeft_eq]

theorem shiftRight_toNat (a : Word) (n : Nat) : (a >>> n).toNat = a.toNat / 2 ^ n := by
  rw [BitVec.toNat_ushiftRight, Nat.shiftRight_eq_div_pow]

theorem sshiftRight_toInt (a : Word) (n : Nat) : (a.sshiftRight n).toInt = a.toInt / 2 ^ n := by
  rw [BitVec.toInt_sshiftRight, Int.shiftRight_eq_div_pow, Int.natCast_pow]
  rfl

/-- Bit k goes to bit k + n modulo 64: past the top it comes in again from below. -/
theorem rotateLeft_getLsbD (a : Word) {n k : Nat} (hn : n < 64) (hk : k < 64) :
    (a.rotateLeft n).getLsbD ((k + n) % 64) = a.getLsbD k := by
  rw [BitVec.getLsbD_rotateLeft, Nat.mod_eq_of_lt hn]
  by_cases h : k + n < 64
  · have hl : ¬ k + n < n := by omega
    simp [Nat.mod_eq_of_lt h, h, hl]
  · have hm : (k + n) % 64 = k + n - 64 := by omega
    have hl : k + n - 64 < n := by omega
    have hb : 64 - n + (k + n - 64) = k := by omega
    simp [hm, hl, hb]

/-! ### Logic -/

theorem andn_getLsbD (a b : Word) (k : Nat) : (a &&& ~~~b).getLsbD k = (a.getLsbD k && !b.getLsbD k) := by
  rw [BitVec.getLsbD_and, BitVec.getLsbD_not]
  by_cases h : k < 64
  · simp [h]
  · simp [BitVec.getLsbD_of_ge a k (by omega)]

theorem xor_getLsbD (a b : Word) (k : Nat) : (a ^^^ b).getLsbD k = (a.getLsbD k != b.getLsbD k) := BitVec.getLsbD_xor

/-- Bit `k` of sext(IMM11, 11). -/
theorem signExtend_getLsbD (i : BitVec 11) (k : Nat) :
    (i.signExtend 64).getLsbD k = if k < 11 then i.getLsbD k else decide (k < 64) && i.getLsbD 10 := by
  rw [BitVec.getLsbD_signExtend, BitVec.msb_eq_getLsbD_last]
  by_cases h : k < 11
  · have : k < 64 := by omega
    simp [h, this]
  · simp [h]

/-! ### Divisions (R51) -/

/-- The signed quotient but for the divisor 0 is that of the library, which wraps the one quotient that does not fit. -/
theorem divS_eq_sdiv {a b : Word} (hb : b ≠ 0) : divS a b = a.sdiv b := by
  rw [divS, if_neg hb, ← BitVec.toInt_inj, BitVec.toInt_ofInt, BitVec.toInt_sdiv]

theorem toInt_eq_zero_iff (b : Word) : b.toInt = 0 ↔ b = 0 := BitVec.toInt_inj (y := 0)

theorem toNat_eq_zero_iff (b : Word) : b.toNat = 0 ↔ b = 0 := BitVec.toNat_inj (y := 0)

theorem divS_toInt (a b : Word) : (divS a b).toInt = if b.toInt = 0 then -1
    else if a.toInt = -2 ^ 63 ∧ b.toInt = -1 then -2 ^ 63 else a.toInt.tdiv b.toInt := by
  by_cases hb : b = 0
  · subst hb
    rfl
  · rw [divS_eq_sdiv hb, if_neg (mt (toInt_eq_zero_iff b).mp hb)]
    split
    case isTrue h =>
      rw [BitVec.toInt_sdiv, h.1, h.2]
      rfl
    case isFalse h =>
      refine BitVec.toInt_sdiv_of_ne_or_ne a b (not_and_or.mp fun hab => h ?_)
      rw [hab.1, hab.2]
      decide

/-- The signed remainder is that of truncating division, which is a for the divisor 0. -/
theorem remS_eq_srem (a b : Word) : remS a b = a.srem b := by
  rw [← BitVec.ofInt_toInt (x := a.srem b), BitVec.toInt_srem, Int.tmod_def, remS]
  split
  case isTrue hb => simp [hb]
  case isFalse => rfl

theorem remS_toInt (a b : Word) : (remS a b).toInt = if b.toInt = 0 then a.toInt
    else if a.toInt = -2 ^ 63 ∧ b.toInt = -1 then 0 else a.toInt - a.toInt.tdiv b.toInt * b.toInt := by
  rw [remS_eq_srem, BitVec.toInt_srem]
  split
  case isTrue hb => rw [hb, Int.tmod_zero]
  case isFalse =>
    split
    case isTrue h =>
      rw [h.1, h.2]
      rfl
    case isFalse => rw [Int.tmod_def, Int.mul_comm]

theorem divU_toNat (a b : Word) : (divU a b).toNat = if b.toNat = 0 then 2 ^ 64 - 1 else a.toNat / b.toNat := by
  rw [divU, apply_ite BitVec.toNat]
  exact if_congr (toNat_eq_zero_iff b).symm rfl (Nat.mod_eq_of_lt ((Nat.div_le_self _ _).trans_lt a.isLt))

theorem remU_toNat (a b : Word) : (remU a b).toNat = if b.toNat = 0 then a.toNat else a.toNat - a.toNat / b.toNat * b.toNat := by
  rw [remU, apply_ite BitVec.toNat, ← Nat.mod_eq_sub_div_mul]
  exact if_congr (toNat_eq_zero_iff b).symm rfl (Nat.mod_eq_of_lt ((Nat.mod_le _ _).trans_lt a.isLt))

/-! ### Counts of bits -/

/-- A count of bits fits a word. -/
theorem w64_toNat_of_le {n : Nat} (h : n ≤ 64) : (w64 n).toNat = n := Nat.mod_eq_of_lt (h.trans_lt (by decide))

theorem leadingZeros_le (a : Word) : leadingZeros a ≤ 64 := by
  rw [leadingZeros]
  split <;> omega

theorem toNat_lt_of_leadingZeros (a : Word) : a.toNat < 2 ^ (64 - leadingZeros a) := by
  rw [leadingZeros]
  split
  case isTrue h => simp [h]
  case isFalse h =>
    have hl : a.toNat.log2 < 64 := (Nat.log2_lt (mt (toNat_eq_zero_iff a).mp h)).mpr a.isLt
    have high : 64 - (63 - a.toNat.log2) = a.toNat.log2 + 1 := by omega
    rw [high]
    exact Nat.lt_log2_self

theorem le_toNat_of_leadingZeros {a : Word} (h : leadingZeros a < 64) : 2 ^ (63 - leadingZeros a) ≤ a.toNat := by
  have h0 : a ≠ 0 := by
    rintro rfl
    exact absurd h (by decide)
  have hn : a.toNat ≠ 0 := mt (toNat_eq_zero_iff a).mp h0
  have hl : a.toNat.log2 < 64 := (Nat.log2_lt hn).mpr a.isLt
  have low : 63 - (63 - a.toNat.log2) = a.toNat.log2 := by omega
  rw [leadingZeros, if_neg h0, low]
  exact Nat.log2_self_le hn

/-- The highest one bit stands right below the zeros that `clz` counts. -/
theorem clz_bounds (a : Word) :
    let v := w64 (leadingZeros a)
    v.toNat ≤ 64 ∧ a.toNat < 2 ^ (64 - v.toNat) ∧ (v.toNat < 64 → 2 ^ (63 - v.toNat) ≤ a.toNat) := by
  dsimp only
  rw [w64_toNat_of_le (leadingZeros_le a)]
  exact ⟨leadingZeros_le a, toNat_lt_of_leadingZeros a, le_toNat_of_leadingZeros⟩

/-- The one bits below bit `n`, counted and summed. -/
theorem length_filter_getLsbD (a : Word) (n : Nat) :
    ((List.range n).filter a.getLsbD).length = ∑ k ∈ Finset.range n, a.toNat / 2 ^ k % 2 := by
  induction n with
  | zero => rfl
  | succ n ih =>
    have bit : ([n].filter a.getLsbD).length = a.toNat / 2 ^ n % 2 := by
      rw [← Nat.toNat_testBit, ← BitVec.getLsbD, List.filter_singleton]
      cases a.getLsbD n <;> rfl
    rw [List.range_succ, List.filter_append, List.length_append, ih, bit, Finset.sum_range_succ]

theorem popc_toNat (a : Word) : (w64 (oneBits a)).toNat = ∑ k ∈ Finset.range 64, a.toNat / 2 ^ k % 2 := by
  have fits : oneBits a ≤ 64 := (List.length_filter_le _ _).trans_eq List.length_range
  rw [w64_toNat_of_le fits, oneBits, length_filter_getLsbD]

/-! ### Immediates -/

theorem add_signExtend_toInt (a : Word) (i : BitVec 11) : (a + i.signExtend 64).toInt = (a.toInt + i.toInt).bmod (2 ^ 64) := by
  rw [BitVec.toInt_add, BitVec.toInt_signExtend_of_le (by decide)]

/-- The shift by 16 makes room for the 16 bits of the immediate. -/
theorem shiftLeft_or_toNat (a : Word) (i : BitVec 16) :
    (a <<< 16 ||| i.setWidth 64).toNat = a.toNat * 2 ^ 16 % 2 ^ 64 + i.toNat := by
  have room : a.toNat * 2 ^ 16 % 2 ^ 64 = (a.toNat % 2 ^ 48) <<< 16 := by
    rw [Nat.shiftLeft_eq]
    exact Nat.mul_mod_mul_right (2 ^ 16) a.toNat (2 ^ 48)
  rw [BitVec.toNat_or, shiftLeft_toNat, BitVec.toNat_setWidth_of_le (by decide), room, Nat.shiftLeft_add_eq_or_of_lt i.isLt]

/-! ### The words -/

section Results
variable {s : State} {i : Instr} {P : Word → Prop}

/-- A word that runs `e`, the model's function for its instruction, completes with the value that the function computes. The same holds
of each form of operands below. -/
theorem State.results_of_alu2 {o : OpDAB} {f : Word → Word → Word} (e : Out) (hi : exec i s = e) (he : e = alu2 o f s)
    (h : s.now.runs o.toGuard [bg o.a, bg o.b]) (hP : P (f (s.now.rg o.a) (s.now.rg o.b))) : s.results i o.d P :=
  ⟨_, hP, (hi.trans he).trans (alu2_done o f s h)⟩

@[inherit_doc State.results_of_alu2]
theorem State.results_of_alu1 {o : OpDA} {f : Word → Word} (e : Out) (hi : exec i s = e) (he : e = alu1 o f s)
    (h : s.now.runs o.toGuard [bg o.a]) (hP : P (f (s.now.rg o.a))) : s.results i o.d P :=
  ⟨_, hP, (hi.trans he).trans (alu1_done o f s h)⟩

@[inherit_doc State.results_of_alu2]
theorem State.results_of_aluI {o : OpDAI} {f : Word → Word → Word} (e : Out) (hi : exec i s = e) (he : e = aluI o f s)
    (h : s.now.runs o.toGuard [bg o.a]) (hP : P (f (s.now.rg o.a) (o.i.signExtend 64))) : s.results i o.d P :=
  ⟨_, hP, (hi.trans he).trans (aluI_done o f s h)⟩

@[inherit_doc State.results_of_alu2]
theorem State.results_of_aluS {o : OpDAS} {f : Word → Nat → Word} (e : Out) (hi : exec i s = e) (he : e = aluS o f s)
    (h : s.now.runs o.toGuard [bg o.a]) (hP : P (f (s.now.rg o.a) o.i.toNat)) : s.results i o.d P :=
  ⟨_, hP, (hi.trans he).trans (aluS_done o f s h)⟩

theorem execLi_done (o : OpDI) (s : State) (h : s.now.runs o.toGuard []) :
    execLi o s = .next (s.done (·.setG o.d (o.i.signExtend 64))) := word_done _ _ _ _ s h rfl

theorem execLsh_done (o : OpDI) (s : State) (h : s.now.runs o.toGuard [bg o.d]) :
    execLsh o s = .next (s.done (·.setG o.d (s.now.rg o.d <<< 16 ||| o.i.setWidth 64))) := word_done _ _ _ _ s h rfl

end Results

theorem arithmeticWords_complete : arithmeticWords := by
  intro s o h a b
  exact ⟨State.results_of_alu2 (execAdd o s) rfl rfl h (BitVec.toNat_add a b),
    State.results_of_alu2 (execSub o s) rfl rfl h (sub_toNat_add a b),
    State.results_of_alu2 (execMul o s) rfl rfl h (BitVec.toNat_mul a b),
    State.results_of_alu2 (execMulh o s) rfl rfl h (mulHighS_toInt a b),
    State.results_of_alu2 (execMulhn o s) rfl rfl h (mulHighU_toNat a b),
    State.results_of_alu2 (execMin o s) rfl rfl h (minS_toInt a b),
    State.results_of_alu2 (execMax o s) rfl rfl h (maxS_toInt a b),
    State.results_of_alu2 (execMinn o s) rfl rfl h (minU_toNat a b),
    State.results_of_alu2 (execMaxn o s) rfl rfl h (maxU_toNat a b),
    State.results_of_alu2 (execAddw o s) rfl rfl h (sext_add_toInt a b),
    State.results_of_alu2 (execSubw o s) rfl rfl h (sext_sub_toInt a b),
    State.results_of_alu2 (execMulw o s) rfl rfl h (sext_mul_toInt a b)⟩

theorem logicShiftWords_complete : logicShiftWords := by
  intro s o h a b n
  exact ⟨State.results_of_alu2 (execAnd o s) rfl rfl h (fun _ => BitVec.getLsbD_and),
    State.results_of_alu2 (execOr o s) rfl rfl h (fun _ => BitVec.getLsbD_or),
    State.results_of_alu2 (execXor o s) rfl rfl h (xor_getLsbD a b),
    State.results_of_alu2 (execAndn o s) rfl rfl h (andn_getLsbD a b),
    State.results_of_alu2 (execShl o s) rfl rfl h (shiftLeft_toNat a n),
    State.results_of_alu2 (execShr o s) rfl rfl h (shiftRight_toNat a n),
    State.results_of_alu2 (execSar o s) rfl rfl h (sshiftRight_toInt a n),
    State.results_of_alu2 (execRotl o s) rfl rfl h fun _ => rotateLeft_getLsbD a (Nat.mod_lt _ (by decide))⟩

theorem divisionWords_complete : divisionWords := by
  intro s o h a b
  exact ⟨State.results_of_alu2 (execDiv o s) rfl rfl h (divS_toInt a b),
    State.results_of_alu2 (execRem o s) rfl rfl h (remS_toInt a b),
    State.results_of_alu2 (execDivn o s) rfl rfl h (divU_toNat a b),
    State.results_of_alu2 (execRemn o s) rfl rfl h (remU_toNat a b)⟩

theorem unaryWords_complete : unaryWords := by
  intro s o h a
  exact ⟨State.results_of_alu1 (execClz o s) rfl rfl h (clz_bounds a),
    State.results_of_alu1 (execPopc o s) rfl rfl h (popc_toNat a),
    State.results_of_alu1 (execSxb o s) rfl rfl h (sext_toInt a (by decide)),
    State.results_of_alu1 (execSxh o s) rfl rfl h (sext_toInt a (by decide)),
    State.results_of_alu1 (execSxw o s) rfl rfl h (sext_toInt a (by decide)),
    State.results_of_alu1 (execZxb o s) rfl rfl h (zext_toNat a (by decide)),
    State.results_of_alu1 (execZxh o s) rfl rfl h (zext_toNat a (by decide)),
    State.results_of_alu1 (execZxw o s) rfl rfl h (zext_toNat a (by decide))⟩

theorem immediateWords_complete : immediateWords := by
  intro s
  refine ⟨?_, ?_, fun o h => ⟨_, BitVec.toInt_signExtend_of_le (by decide), execLi_done o s h⟩,
    fun o h => ⟨_, shiftLeft_or_toNat _ o.i, execLsh_done o s h⟩⟩
  · intro o h a imm
    have bit : ∀ k, (o.i.signExtend 64).getLsbD k = imm k := signExtend_getLsbD o.i
    refine ⟨State.results_of_aluI (execAddi o s) rfl rfl h (add_signExtend_toInt a o.i),
      State.results_of_aluI (execAndi o s) rfl rfl h (fun k => ?_),
      State.results_of_aluI (execOri o s) rfl rfl h (fun k => ?_),
      State.results_of_aluI (execXori o s) rfl rfl h (fun k => ?_)⟩
    · rw [BitVec.getLsbD_and, bit]
    · rw [BitVec.getLsbD_or, bit]
    · rw [xor_getLsbD, bit]
  · intro o h a
    exact ⟨State.results_of_aluS (execShli o s) rfl rfl h (shiftLeft_toNat a _),
      State.results_of_aluS (execShri o s) rfl rfl h (shiftRight_toNat a _),
      State.results_of_aluS (execSari o s) rfl rfl h (sshiftRight_toInt a _)⟩

/-- Settles O11: each word of the group completes (`alu2_done` and its like), with the value that its function is shown to have. -/
theorem aluWords : Obligations.AluWords := by
  unfold Obligations.AluWords
  exact ⟨arithmeticWords_complete, logicShiftWords_complete, divisionWords_complete, unaryWords_complete, immediateWords_complete⟩

end Sys2Proof.Machine
end

section
/-!
PROOFS. The issue of a vector word in a slot where no window runs (R19 to R22, R47, R115): what a read and a write of a vector register or mask
give, and what a word that computes its destination element by element leaves (`vuIssue_writes`, `vuIssue_elem`).
-/

namespace Sys2Proof.Machine

/-! ### Elements and bits by their index -/

theorem VReg.at_index (v : VReg) (j : Fin 1024) : v.at (j.val / 64) (j.val % 64) = v[j] := by
  have hj : 64 * (j.val / 64 % 16) + j.val % 64 % 64 = j.val := by omega
  simp only [VReg.at, hj, Fin.getElem_fin]

theorem MReg.row_of_lt (k : MReg) {r : Nat} (hr : r < 16) : k.row r = k[r] := by
  simp only [MReg.row, Nat.mod_eq_of_lt hr]

theorem MReg.at_index (k : MReg) (j : Fin 1024) :
    k.at (j.val / 64) (j.val % 64) = (k[j.val / 64]'(by omega)).getLsbD (j.val % 64) := by
  rw [MReg.at, k.row_of_lt (by omega)]

theorem allMask_at (r : Nat) {c : Nat} (hc : c < 64) : allMask.at r c = true := by
  rw [MReg.at, MReg.row, allMask, Vector.getElem_replicate, BitVec.getLsbD_allOnes]
  exact decide_eq_true hc

theorem govern_at (k : MReg) (kn : Bool) (r : Nat) {c : Nat} (hc : c < 64) : (govern k kn).at r c = xor (k.at r c) kn := by
  rw [MReg.at, MReg.row, govern, Vector.getElem_ofFn]
  cases kn
  · rw [Bool.xor_false]
    rfl
  · rw [if_pos rfl, BitVec.getLsbD_not, decide_eq_true hc, Bool.xor_true, Bool.true_and]
    rfl

/-! ### Windows that have passed -/

theorem Win.quiet.running {w : Win} {n : Nat} (h : w.quiet n) : w.running n = [] := by
  rw [Win.running, List.filter_eq_nil_iff]
  intro e he
  have := h.2 e he
  simpa using this

/-- With no window running a write sets every element that it writes (R22). -/
theorem Win.quiet.won {w : Win} {n : Nat} (h : w.quiet n) (free : Nat) (wrote : MReg) : w.won n free wrote = wrote := by
  have hnone (r : Fin 16) : (w.contested n)[r] = 0 := by
    simp only [Win.contested, h.running, Fin.getElem_fin, Vector.getElem_ofFn, List.foldl_nil]
  apply Vector.ext
  intro r hr
  rw [Win.won, Vector.getElem_ofFn, hnone ⟨r, hr⟩]
  change wrote[r] &&& (~~~0#64 ||| (freeMask free)[r]) = wrote[r]
  rw [BitVec.not_zero, BitVec.allOnes_or, BitVec.and_allOnes]

/-- The bound of a write in slot `n` is the latest that runs. -/
theorem Win.quiet.next_due {w : Win} {n : Nat} (h : w.quiet n) (l : Nat) (won : MReg) : (w.next n l won).due = n + l :=
  Nat.max_eq_right (h.1.trans (Nat.le_add_right n l))

/-! ### Vector registers -/

theorem Vu.readV_quiet {u : Vu} {i : BitVec 4} {n : Nat} (h : (u.vwin[i.toNat]'i.isLt).quiet n) (free : Nat) :
    u.readV i n free = u.v[i.toNat]'i.isLt := if_pos h.1

theorem Vu.writeV_self {u : Vu} {i : BitVec 4} {n : Nat} (h : (u.vwin[i.toNat]'i.isLt).quiet n) (l free : Nat) (wrote : MReg) (nv : VReg)
    (j : Fin 1024) : ((u.writeV i n l free wrote nv).v[i.toNat]'i.isLt)[j] =
      if wrote.at (j.val / 64) (j.val % 64) then nv[j] else (u.v[i.toNat]'i.isLt)[j] := by
  simp only [Vu.writeV, h.won, Vector.getElem_set_self, Fin.getElem_fin, Vector.getElem_ofFn]

theorem Vu.writeV_other (u : Vu) {i k : BitVec 4} (hk : k ≠ i) (n l free : Nat) (wrote : MReg) (nv : VReg) :
    (u.writeV i n l free wrote nv).v[k.toNat]'k.isLt = u.v[k.toNat]'k.isLt :=
  Vector.getElem_set_ne i.isLt k.isLt fun he => hk (BitVec.eq_of_toNat_eq he.symm)

theorem Vu.writeV_due {u : Vu} {i : BitVec 4} {n : Nat} (h : (u.vwin[i.toNat]'i.isLt).quiet n) (l free : Nat) (wrote : MReg) (nv : VReg) :
    ((u.writeV i n l free wrote nv).vwin[i.toNat]'i.isLt).due = n + l := by
  simp only [Vu.writeV, Vector.getElem_set_self, h.next_due]

/-! ### Masks -/

/-- A mask as it stands: k0 is all ones (R11). -/
def Vu.mask (u : Vu) (i : BitVec 3) : MReg := if i = 0 then allMask else u.k[i.toNat]'i.isLt

theorem Vu.readK_quiet {u : Vu} {i : BitVec 3} {n : Nat} (h : (u.kwin[i.toNat]'i.isLt).quiet n) (free : Nat) :
    u.readK i n free = u.mask i := by
  rw [Vu.readK, if_pos h.1]
  rfl

theorem Vu.writeK_self {u : Vu} {i : BitVec 3} (hi : i ≠ 0) {n : Nat} (h : (u.kwin[i.toNat]'i.isLt).quiet n) (l free : Nat)
    (wrote nv : MReg) (r : Fin 16) : ((u.writeK i n l free wrote nv).k[i.toNat]'i.isLt)[r] =
      ((u.k[i.toNat]'i.isLt)[r] &&& ~~~wrote[r]) ||| (nv[r] &&& wrote[r]) := by
  simp only [Vu.writeK, if_neg hi, h.won, Vector.getElem_set_self, Fin.getElem_fin, Vector.getElem_ofFn]

theorem Vu.writeK_due {u : Vu} {i : BitVec 3} (hi : i ≠ 0) {n : Nat} (h : (u.kwin[i.toNat]'i.isLt).quiet n) (l free : Nat)
    (wrote nv : MReg) : ((u.writeK i n l free wrote nv).kwin[i.toNat]'i.isLt).due = n + l := by
  simp only [Vu.writeK, if_neg hi, Vector.getElem_set_self, h.next_due]

@[simp] theorem Vu.writeK_v (u : Vu) (i : BitVec 3) (n l free : Nat) (wrote nv : MReg) : (u.writeK i n l free wrote nv).v = u.v := by
  rw [Vu.writeK]
  split <;> rfl

/-- M[r][c] of R115, as the model forms it. -/
theorem governs_eq (x : Ctx) (k : BitVec 3) (kn : Bool) (j : Fin 1024) :
    (govern (x.vu.mask k) kn).at (j.val / 64) (j.val % 64) = governs x k kn j := by
  have hc : j.val % 64 < 64 := Nat.mod_lt _ (by decide)
  rw [govern_at _ _ _ hc, governs, Vu.mask]
  by_cases hk : k = 0
  · rw [if_pos hk, if_pos hk, allMask_at _ hc]
  · rw [if_neg hk, if_neg hk, MReg.at_index]

/-! ### Flags -/

/-- Flag `i` is raised where an element that the mask governs raises it. -/
theorem flagsOf_getLsbD (m : MReg) (f : Nat → Nat → Fl) (i : Nat) : (flagsOf m f).getLsbD i = true ↔
    ∃ j : Fin 1024, m.at (j.val / 64) (j.val % 64) = true ∧ (f (j.val / 64) (j.val % 64)).getLsbD i = true := by
  have fold (l : List Nat) (acc : Fl) :
      (l.foldl (fun acc j => if m.at (j / 64) (j % 64) then acc ||| f (j / 64) (j % 64) else acc) acc).getLsbD i = true ↔
        acc.getLsbD i = true ∨ ∃ j ∈ l, m.at (j / 64) (j % 64) = true ∧ (f (j / 64) (j % 64)).getLsbD i = true := by
    induction l generalizing acc with
    | nil => simp
    | cons j l ih =>
      rw [List.foldl_cons, ih]
      by_cases hj : m.at (j / 64) (j % 64) = true
      · simp [hj, or_assoc]
      · simp [hj]
  rw [flagsOf, fold]
  simp [Fin.exists_iff, and_left_comm]

/-- Elements without flags raise none. -/
theorem flagsOf_eq_zero (m : MReg) {f : Nat → Nat → Fl} (h : ∀ r c, f r c = 0) : flagsOf m f = 0 := by
  apply BitVec.eq_of_getLsbD_eq
  intro i _
  rw [Bool.eq_iff_iff, flagsOf_getLsbD]
  simp [h]

/-- A flag that stands stays. -/
theorem Fl.or_getElem_of_left {a : Fl} {i : Fin 7} (h : a[i] = true) (b : Fl) : (a ||| b)[i] = true := by
  simp only [Fin.getElem_fin] at h ⊢
  rw [BitVec.getElem_or, h, Bool.true_or]

/-! ### The issue -/

/-- The operands of a word where no window runs. -/
def Ctx.reads (x : Ctx) (e : VEntry) : Reads where
  va := x.vu.v[e.f.a.toNat]'e.f.a.isLt
  vb := x.vu.v[e.f.b.toNat]'e.f.b.isLt
  vd := x.vu.v[e.f.d.toNat]'e.f.d.isLt
  ka := x.vu.mask (e.f.a.setWidth 3)
  kb := x.vu.mask (e.f.b.setWidth 3)
  gs := e.gs
  md := x.vu.rm

/-- The context whose VU has taken its next entry in slot `n`. -/
def Ctx.atSlot (x : Ctx) (rest : List VEntry) (n : Nat) : Ctx := { x with vu := { x.vu with queue := rest, slot := n } }

section
variable {s : State} {p : Nat} {e : VEntry} {rest : List VEntry} {n : Nat}

theorem not_dropped_of_ready (h : vuReady s p e rest n) : e.dropped = false := by
  obtain ⟨-, -, hd, -, -, -⟩ := h
  exact hd

theorem quietV_of_ready (h : vuReady s p e rest n) (i : BitVec 4) :
    (((s.core p).ctx.atSlot rest n).vu.vwin[i.toNat]'i.isLt).quiet n := by
  obtain ⟨-, -, -, -, hv, -⟩ := h
  exact hv ⟨i.toNat, i.isLt⟩

theorem quietK_of_ready (h : vuReady s p e rest n) (i : BitVec 3) :
    (((s.core p).ctx.atSlot rest n).vu.kwin[i.toNat]'i.isLt).quiet n := by
  obtain ⟨-, -, -, -, -, hk⟩ := h
  exact hk ⟨i.toNat, i.isLt⟩

theorem readV_of_ready (h : vuReady s p e rest n) (i : BitVec 4) (free : Nat) :
    ((s.core p).ctx.atSlot rest n).vu.readV i n free = (s.core p).ctx.vu.v[i.toNat]'i.isLt := Vu.readV_quiet (quietV_of_ready h i) free

theorem readK_of_ready (h : vuReady s p e rest n) (i : BitVec 3) (free : Nat) :
    ((s.core p).ctx.atSlot rest n).vu.readK i n free = (s.core p).ctx.vu.mask i := Vu.readK_quiet (quietK_of_ready h i) free

/-- Without error marks no operand is uncorrectable. -/
theorem vectorBad_nil (op : VOp) (o : OpV) (m : Mod) : vectorBad op o m [] = false := by
  simp [vectorBad]

/-- The VU takes the entry at the head of its queue and issues it in its earliest slot (R19). -/
theorem vuIssue_of_ready {op : VOp} (h : vuReady s p e rest n) (hop : e.op = some op) (hi : (s.core p).ctx.issuable e = true)
    (hn : n = (s.core p).ctx.vu.slot + 1 + e.f.p.toNat) :
    ((s.vuIssue p 0).core p).ctx = ((s.core p).ctx.atSlot rest n).issue e op n s.free := by
  obtain ⟨hf, hq, hd, hb, -, -⟩ := h
  subst hn
  simp only [State.vuIssue, hq, hf, hi, hop, hd, hb, vectorBad_nil, Bool.not_true, Bool.or_false, Bool.false_eq_true, if_false,
    Bool.not_false, Bool.and_false, Nat.add_zero]
  exact congrArg Core.ctx (State.core_setCore_self _ _ _)

end

section
variable {s : State} {p : Nat} {e : VEntry} {rest : List VEntry}

/-- What the VU keeps when a word writes VD in its slot with bound `l`, and where the window of VD ends (R19 to R21). -/
theorem frame_of_writeV {n l free : Nat} {wrote : MReg} {nv : VReg} {y : Ctx} (h : vuReady s p e rest n)
    (hy : y.vu = ((s.core p).ctx.atSlot rest n).vu.writeV e.f.d n l free wrote nv) :
    y.vu.slot = n ∧ y.vu.queue = rest ∧ (y.vu.vwin[e.f.d.toNat]'e.f.d.isLt).due = n + l ∧ y.vu.k = (s.core p).ctx.vu.k ∧
    ∀ i : BitVec 4, i ≠ e.f.d → y.vu.v[i.toNat]'i.isLt = (s.core p).ctx.vu.v[i.toNat]'i.isLt := by
  rw [hy]
  exact ⟨rfl, rfl, Vu.writeV_due (quietV_of_ready h _) _ _ _ _, rfl,
    fun i hi => Vu.writeV_other ((s.core p).ctx.atSlot rest _).vu hi _ _ _ _ _⟩

end

/-! ### Words that compute their destination element by element -/

/-- The opcodes whose destination is a vector register with elements computed one by one from the operands (`laneOf`). -/
def byLanes : VOp → Bool
  | .vcmp | .vcmps | .kop | .vsel | .vget | .vld | .vldb | .vst | .vstadd | .vzero => false
  | _ => true

/-- Every element of the result where the mask governs, zeros elsewhere. -/
def laneReg (op : VOp) (m : Mod) (gov : MReg) (rd : Reads) : VReg :=
  Vector.ofFn fun j => if gov.at (j.val / 64) (j.val % 64) then (laneOf op m rd (j.val / 64) (j.val % 64)).1 else 0

/-- W_MOD, where the modifier word asks for it (R43). -/
def Ctx.warned (x : Ctx) (m : Mod) : Ctx := if m.warn then { x with warn := setBit8 x.warn wMod true } else x

@[simp] theorem Ctx.warned_vufl (x : Ctx) (m : Mod) : (x.warned m).vufl = x.vufl := by
  rw [Ctx.warned]
  split <;> rfl

/-- What the issue of such a word changes (R115). -/
theorem Ctx.issue_of_byLanes {x : Ctx} {e : VEntry} {op : VOp} (hop : byLanes op = true) (hd : e.dropped = false) {n free : Nat} {rd : Reads}
    {k : MReg} (hk : x.vu.readK (modOf op e.gt).k n free = k)
    (hrd : rd = ⟨x.vu.readV e.f.a n (free + 1024), x.vu.readV e.f.b n (free + 2048), x.vu.readV e.f.d n (free + 3072),
      x.vu.readK (e.f.a.setWidth 3) n (free + 4096), x.vu.readK (e.f.b.setWidth 3) n (free + 5120), e.gs, x.vu.rm⟩) :
    let m := modOf op e.gt
    let gov := govern k m.kn
    x.issue e op n free = { x.warned m with
      vu := x.vu.writeV e.f.d n (Machine.bound op) (free + 6144) (if m.kz then allMask else gov) (laneReg op m gov rd)
      vufl := (x.warned m).vufl ||| flagsOf gov fun r c => (laneOf op m rd r c).2 } := by
  subst hk hrd
  obtain ⟨num, op', f, gs, gt, load, store, dropped, tag⟩ := e
  obtain rfl : dropped = false := hd
  cases op with
  | vcmp | vcmps | kop | vsel | vget | vld | vldb | vst | vstadd | vzero => exact absurd hop Bool.false_ne_true
  | _ => rfl

theorem Ctx.issuable_of_byLanes (x : Ctx) {e : VEntry} {op : VOp} (hop : e.op = some op) (hl : byLanes op = true) : x.issuable e = true := by
  rw [Ctx.issuable, hop]
  cases op with
  | vld | vldb | vget => exact absurd hl Bool.false_ne_true
  | _ => rfl

section
variable {s : State} {p : Nat} {e : VEntry} {rest : List VEntry} {op : VOp}

/-- What the issue of such a word leaves where no window runs: its destination and its flags. -/
theorem vuIssue_ctx (h : vuReady s p e rest ((s.core p).ctx.vu.slot + 1 + e.f.p.toNat)) (hop : e.op = some op)
    (hl : byLanes op = true) :
    let x := (s.core p).ctx
    let n := x.vu.slot + 1 + e.f.p.toNat
    let m := modOf op e.gt
    let gov := govern (x.vu.mask m.k) m.kn
    ((s.vuIssue p 0).core p).ctx = { (x.atSlot rest n).warned m with
      vu := (x.atSlot rest n).vu.writeV e.f.d n (bound op) (s.free + 6144) (if m.kz then allMask else gov)
        (laneReg op m gov (x.reads e))
      vufl := ((x.atSlot rest n).warned m).vufl ||| flagsOf gov fun r c => (laneOf op m (x.reads e) r c).2 } := by
  have hd : e.dropped = false := not_dropped_of_ready h
  rw [vuIssue_of_ready h hop (Ctx.issuable_of_byLanes _ hop hl) rfl]
  refine Ctx.issue_of_byLanes hl hd (readK_of_ready h _ _) ?_
  rw [readV_of_ready h, readV_of_ready h, readV_of_ready h, readK_of_ready h, readK_of_ready h]
  rfl

theorem vuIssue_vufl (h : vuReady s p e rest ((s.core p).ctx.vu.slot + 1 + e.f.p.toNat)) (hop : e.op = some op)
    (hl : byLanes op = true) :
    let x := (s.core p).ctx
    let m := modOf op e.gt
    ((s.vuIssue p 0).core p).ctx.vufl =
      x.vufl ||| flagsOf (govern (x.vu.mask m.k) m.kn) fun r c => (laneOf op m (x.reads e) r c).2 := by
  rw [vuIssue_ctx h hop hl]
  dsimp only
  rw [Ctx.warned_vufl]
  rfl

/-- A word whose elements raise no flag leaves the flags. -/
theorem vuIssue_vufl_of_none (h : vuReady s p e rest ((s.core p).ctx.vu.slot + 1 + e.f.p.toNat)) (hop : e.op = some op)
    (hl : byLanes op = true) (hf : ∀ m rd r c, (laneOf op m rd r c).2 = 0) :
    ((s.vuIssue p 0).core p).ctx.vufl = (s.core p).ctx.vufl := by
  rw [vuIssue_vufl h hop hl, flagsOf_eq_zero _ (hf _ _)]
  exact BitVec.or_zero

/-- R115: an element of the destination after the issue. -/
theorem vuIssue_elem (h : vuReady s p e rest ((s.core p).ctx.vu.slot + 1 + e.f.p.toNat)) (hop : e.op = some op)
    (hl : byLanes op = true) (j : Fin 1024) :
    let x := (s.core p).ctx
    let m := modOf op e.gt
    ((((s.vuIssue p 0).core p).ctx.vu.v[e.f.d.toNat]'e.f.d.isLt)[j]) =
      if governs x m.k m.kn j then (laneOf op m (x.reads e) (j.val / 64) (j.val % 64)).1
      else if m.kz then 0 else (x.vu.v[e.f.d.toNat]'e.f.d.isLt)[j] := by
  intro x m
  rw [vuIssue_ctx h hop hl]
  dsimp only
  rw [Vu.writeV_self (quietV_of_ready h _), laneReg, Fin.getElem_fin, Vector.getElem_ofFn, governs_eq]
  change (if (if m.kz then allMask else govern (x.vu.mask m.k) m.kn).at (j.val / 64) (j.val % 64) = true then _ else _) = _
  by_cases hk : m.kz = true
  · rw [if_pos hk, if_pos hk, allMask_at _ (Nat.mod_lt _ (by decide))]
    rfl
  · rw [if_neg hk, if_neg hk, governs_eq]
    by_cases hg : governs x m.k m.kn j = true
    · simp only [hg, if_true, m, x]
    · simp only [hg]
      rfl

/-- R19, R20, R115: the frame of such a word. -/
theorem vuIssue_writes (h : vuReady s p e rest ((s.core p).ctx.vu.slot + 1 + e.f.p.toNat)) (hop : e.op = some op)
    (hl : byLanes op = true) : vuWrites s p e rest (modOf op e.gt) (bound op) := by
  obtain ⟨hslot, hqueue, hdue, hk, hframe⟩ := frame_of_writeV h (congrArg Ctx.vu (vuIssue_ctx h hop hl))
  refine ⟨hslot, hqueue, hdue, hk, fun i hi => ?_, hframe, fun j hj => ?_⟩
  · rw [vuIssue_vufl h hop hl]
    exact Fl.or_getElem_of_left hi _
  · rw [vuIssue_elem h hop hl, hj]
    rfl

end

end Sys2Proof.Machine
end

section
/-!
PROOFS. The integer elements (R114, R117, R120): how a type reads an element and writes a result, and what each integer opcode writes
(`VuElements`).
-/

namespace Sys2Proof.Machine

/-! ### Types of elements -/

theorem etWidth_le (t : Et) : etWidth t ≤ 32 := by
  rw [etWidth]
  split <;> [decide; (split <;> decide)]

theorem etBits_lt (t : Et) (x : Elem) : etBits t x < 2 ^ etWidth t := Nat.mod_lt _ (Nat.two_pow_pos _)

/-- An element read as an integer is its low bits, balanced for a signed type. -/
theorem etVal_eq (t : Et) (x : Elem) : etVal t x =
    if etSigned t then ((x.toNat % 2 ^ etWidth t : Nat) : Int).bmod (2 ^ etWidth t) else ((x.toNat % 2 ^ etWidth t : Nat) : Int) := by
  rw [etVal, BitVec.toInt_ofNat', Int.natCast_mod, Int.emod_bmod]
  rfl

/-- An element and its low bits are the same number modulo 2^w. -/
theorem etVal_emod (t : Et) (x : Elem) : etVal t x % 2 ^ etWidth t = (etBits t x : Int) % 2 ^ etWidth t := by
  rw [etVal_eq]
  split
  · have := Int.bmod_emod (x := (etBits t x : Int)) (m := 2 ^ etWidth t)
    push_cast at this
    exact this
  · rfl

/-- The result of `v` in the type's representation (R114). -/
theorem etRep_isElement (t : Et) {k : Nat} {v : Int} (h : (k : Int) % 2 ^ etWidth t = v % 2 ^ etWidth t) :
    isElement (etWidth t) (etSigned t) v (etRep t k) := by
  rw [isElement, etRep]
  split
  · rw [BitVec.toInt_signExtend_of_le (etWidth_le t), BitVec.toInt_ofNat', ← Int.emod_bmod, ← Int.emod_bmod (x := v)]
    push_cast
    rw [h]
  · have hw : 2 ^ etWidth t ≤ 2 ^ 32 := Nat.pow_le_pow_right (by decide) (etWidth_le t)
    rw [BitVec.toNat_ofNat, Nat.mod_eq_of_lt ((Nat.mod_lt _ (Nat.two_pow_pos _)).trans_le hw)]
    push_cast
    exact h

/-- Every element written in a type is in its representation. -/
theorem etRep_isElement_self (t : Et) (k : Nat) : isElement (etWidth t) (etSigned t) k (etRep t k) := etRep_isElement t rfl

theorem etRep_getLsbD (t : Et) (v : Nat) {k : Nat} (hk : k < etWidth t) : (etRep t v).getLsbD k = v.testBit k := by
  have h32 : k < 32 := hk.trans_le (etWidth_le t)
  rw [etRep]
  split
  · rw [BitVec.getLsbD_signExtend, if_pos hk, decide_eq_true h32, BitVec.getLsbD_ofNat, decide_eq_true hk]
    simp
  · rw [BitVec.getLsbD_ofNat, decide_eq_true h32, Nat.testBit_mod_two_pow, decide_eq_true hk]
    simp

theorem etBits_testBit (t : Et) (x : Elem) {k : Nat} (hk : k < etWidth t) : (etBits t x).testBit k = x.getLsbD k := by
  rw [etBits, Nat.testBit_mod_two_pow, decide_eq_true hk]
  rfl

/-- The low bits of the scalar of R117. -/
theorem etBits_scalarOf (t : Et) (gs : Word) : etBits t (scalarOf t gs) = gs.toNat % 2 ^ etWidth t := by
  have hw : 2 ^ etWidth t ≤ 2 ^ 32 := Nat.pow_le_pow_right (by decide) (etWidth_le t)
  rw [etBits, scalarOf, BitVec.toNat_ofNat, Nat.mod_eq_of_lt ((Nat.mod_lt _ (Nat.two_pow_pos _)).trans_le hw), Nat.mod_mod]

/-! ### The integer opcodes -/

section
variable (t : Et) (a b : Elem)

/-- The result of an integer opcode is an element of the type `t` with the value `v` modulo 2^w. -/
def givesInt (op : VOp) (v : Int) : Prop := isElement (etWidth t) (etSigned t) v (laneInt op t a b).1

theorem laneInt_viadd : givesInt t a b .viadd (etVal t a + etVal t b) := by
  refine etRep_isElement t ?_
  rw [Int.add_emod, etVal_emod, etVal_emod, ← Int.add_emod]
  rfl

theorem laneInt_visub : givesInt t a b .visub (etVal t a - etVal t b) := by
  have := (etBits_lt t b).le.trans (Nat.le_add_left _ (etBits t a))
  refine etRep_isElement t ?_
  rw [Int.sub_emod, etVal_emod, etVal_emod, ← Int.sub_emod]
  push_cast [this]
  rw [add_sub_right_comm, Int.add_emod_right]

theorem laneInt_vimul : givesInt t a b .vimul (etVal t a * etVal t b) := by
  refine etRep_isElement t ?_
  rw [Int.mul_emod, etVal_emod, etVal_emod, ← Int.mul_emod]
  rfl

theorem laneInt_vimin : givesInt t a b .vimin (min (etVal t a) (etVal t b)) := by
  refine etRep_isElement t ?_
  dsimp only
  split
  · next h => rw [min_eq_left h.le, etVal_emod]
  · next h => rw [min_eq_right (not_lt.mp h), etVal_emod]

theorem laneInt_vimax : givesInt t a b .vimax (max (etVal t a) (etVal t b)) := by
  refine etRep_isElement t ?_
  dsimp only
  split
  · next h => rw [max_eq_right h.le, etVal_emod]
  · next h => rw [max_eq_left (not_lt.mp h), etVal_emod]

theorem laneInt_viadds (gs : Word) : isElement (etWidth t) (etSigned t) (etVal t a + gs.toNat) (laneInt .viadds t a (scalarOf t gs)).1 := by
  refine etRep_isElement t ?_
  rw [etBits_scalarOf, Int.add_emod, etVal_emod, ← Int.add_emod]
  push_cast
  rw [Int.add_emod_emod]

theorem laneInt_vshl : givesInt t a b .vshl (etBits t a * 2 ^ (b.toNat % 32) : Nat) := by
  refine etRep_isElement t ?_
  dsimp only
  split
  · next h =>
    obtain ⟨c, hc⟩ := Nat.pow_dvd_pow 2 h
    rw [hc]
    push_cast
    rw [Int.mul_left_comm, Int.mul_emod_right]
    exact Int.zero_emod _
  · rw [Nat.shiftLeft_eq]

theorem laneInt_vshr : givesInt t a b .vshr (etBits t a / 2 ^ (b.toNat % 32) : Nat) := by
  refine etRep_isElement t ?_
  dsimp only
  split
  · next h => rw [Nat.div_eq_of_lt ((etBits_lt t a).trans_le (Nat.pow_le_pow_right (by decide) h))]
  · rw [Nat.shiftRight_eq_div_pow]

/-- A count beyond the width shifts every bit but the sign out. -/
theorem sshiftRight_min_toInt {w : Nat} (x : BitVec w) (n : Nat) : (x.sshiftRight (min n w)).toInt = x.toInt / 2 ^ n := by
  rw [BitVec.toInt_sshiftRight, Int.shiftRight_eq_div_pow]
  rcases le_total n w with h | h
  · rw [min_eq_left h]
    push_cast
    rfl
  · have hw : (2 : Int) ^ w ≤ 2 ^ n := pow_le_pow_right₀ (by decide) h
    have low : -2 ^ w ≤ 2 * x.toInt := BitVec.le_two_mul_toInt
    have high : 2 * x.toInt < 2 ^ w := BitVec.two_mul_toInt_lt
    rw [min_eq_right h]
    push_cast
    rcases lt_or_ge x.toInt 0 with hx | hx
    · rw [Int.ediv_eq_neg_one_of_neg_of_le hx (by omega), Int.ediv_eq_neg_one_of_neg_of_le hx (by omega)]
    · rw [Int.ediv_eq_zero_of_lt hx (by omega), Int.ediv_eq_zero_of_lt hx (by omega)]

theorem laneInt_vsar : givesInt t a b .vsar ((etBits t a : Int).bmod (2 ^ etWidth t) / 2 ^ (b.toNat % 32)) := by
  refine etRep_isElement t ?_
  have shifted := sshiftRight_min_toInt (BitVec.ofNat (etWidth t) (etBits t a)) (b.toNat % 32)
  rw [BitVec.toInt_ofNat'] at shifted
  rw [← shifted]
  have low := Int.bmod_emod (x := (((BitVec.ofNat (etWidth t) (etBits t a)).sshiftRight (min (b.toNat % 32) (etWidth t))).toNat : Int))
    (m := 2 ^ etWidth t)
  rw [← BitVec.toInt_eq_toNat_bmod] at low
  push_cast at low
  exact low.symm

theorem laneInt_vand {k : Nat} (hk : k < etWidth t) : (laneInt .vand t a b).1.getLsbD k = (a.getLsbD k && b.getLsbD k) := by
  rw [← etBits_testBit t a hk, ← etBits_testBit t b hk, ← Nat.testBit_and]
  exact etRep_getLsbD t _ hk

theorem laneInt_vor {k : Nat} (hk : k < etWidth t) : (laneInt .vor t a b).1.getLsbD k = (a.getLsbD k || b.getLsbD k) := by
  rw [← etBits_testBit t a hk, ← etBits_testBit t b hk, ← Nat.testBit_or]
  exact etRep_getLsbD t _ hk

theorem laneInt_vxor {k : Nat} (hk : k < etWidth t) : (laneInt .vxor t a b).1.getLsbD k = (a.getLsbD k != b.getLsbD k) := by
  rw [← etBits_testBit t a hk, ← etBits_testBit t b hk, Bool.bne_eq_xor, ← Nat.testBit_xor]
  exact etRep_getLsbD t _ hk

end

/-! ### The modifier word -/

theorem pick_mem {l : List Et} {d : Et} (hd : d ∈ l) (v : Nat) : (pick v (some (l, d))).1 ∈ l := by
  rw [pick]
  split
  · next h => exact List.contains_iff_mem.mp h
  · exact hd

/-- An opcode's ET is one of the types that it accepts (R45). -/
theorem modOf_et_mem {op : VOp} {l : List Et} {d : Et} (h : etSet op = some (l, d)) (hd : d ∈ l) (w : Word) : (modOf op w).et ∈ l := by
  change (pick (wbits w 3 0) (etSet op)).1 ∈ l
  rw [h]
  exact pick_mem hd _

/-! ### The issue of the integer words -/

/-- The second operand of an integer word: an element of VB, or for `viadds` the scalar of R117. -/
def integerOperand (op : VOp) (t : Et) (rd : Reads) (r c : Nat) : Elem := if op = .viadds then scalarOf t rd.gs else rd.vb.at r c

/-- What the twelve opcodes of R120 share. -/
theorem integerWord {op : VOp}
    (h : op ∈ [VOp.viadd, .visub, .vimul, .vand, .vor, .vxor, .vshl, .vshr, .vsar, .vimin, .vimax, .viadds]) :
    byLanes op = true ∧ bound op = 2 ∧ etSet op = some ([3, 4, 5, 6, 7, 8], 3) ∧
    ∀ m rd r c, laneOf op m rd r c = laneInt op m.et (rd.va.at r c) (integerOperand op m.et rd r c) := by
  cases op with
  | viadd | visub | vimul | vand | vor | vxor | vshl | vshr | vsar | vimin | vimax | viadds => exact ⟨rfl, rfl, rfl, fun _ _ _ _ => rfl⟩
  | _ => exact absurd h (by decide)

/-- Settles O34: `vuIssue_elem` gives each element, and the lemmas on `laneInt` its value. -/
theorem vuElements : Obligations.VuElements := by
  unfold Obligations.VuElements
  intro s p e rest op hop x n m t y w h hop12
  obtain ⟨hl, hbound, hset, hlane⟩ := integerWord hop12
  obtain ⟨hslot, hqueue, hdue, hk, -, hframe, hout⟩ := vuIssue_writes h hop hl
  rw [hbound] at hdue
  have hfl : y.vufl = x.vufl := vuIssue_vufl_of_none h hop hl fun m rd r c => congrArg Prod.snd (hlane m rd r c)
  refine ⟨modOf_et_mem hset (by decide) _, hslot, hqueue, hdue, hk, hfl, hframe, ?_⟩
  intro j a b r num low is
  refine ⟨hout j, fun hg => ?_⟩
  have hnum (z : Elem) : num z = etVal m.et z := (etVal_eq m.et z).symm
  have ha : (x.reads e).va.at (j.val / 64) (j.val % 64) = a := VReg.at_index _ j
  have hb : (x.reads e).vb.at (j.val / 64) (j.val % 64) = b := VReg.at_index _ j
  have hr : r = (laneInt op m.et a (if op = .viadds then scalarOf m.et e.gs else b)).1 := by
    rw [← ha, ← hb]
    exact (vuIssue_elem h hop hl j).trans ((if_pos hg).trans (congrArg Prod.fst (hlane m _ _ _)))
  simp only [hnum]
  refine ⟨?_, ?_, ?_, ?_, ?_, ?_, ?_, ?_, ?_, ?_, ?_, ?_⟩
  all_goals
    intro ho
    subst ho
    rw [hr]
  · exact laneInt_viadd m.et a b
  · exact laneInt_visub m.et a b
  · exact laneInt_vimul m.et a b
  · exact ⟨⟨_, etRep_isElement_self _ _⟩, fun k => laneInt_vand m.et a b⟩
  · exact ⟨⟨_, etRep_isElement_self _ _⟩, fun k => laneInt_vor m.et a b⟩
  · exact ⟨⟨_, etRep_isElement_self _ _⟩, fun k => laneInt_vxor m.et a b⟩
  · exact laneInt_vshl m.et a b
  · exact laneInt_vshr m.et a b
  · exact laneInt_vsar m.et a b
  · exact laneInt_vimin m.et a b
  · exact laneInt_vimax m.et a b
  · exact laneInt_viadds m.et a e.gs

end Sys2Proof.Machine
end

section
/-!
PROOFS. The vector words that move or select (R118, R122, R123, R125, R127): the sign operations, the indices of `viota` as FP32 codes, the
moves across lanes, and `vsel` (`VuMoves`).
-/

namespace Sys2Proof.Machine

/-! ### Sign operations -/

theorem etRep_toNat {t : Et} (h : etSigned t = false) (v : Nat) : (etRep t v).toNat = v % 2 ^ etWidth t := by
  have hw : 2 ^ etWidth t ≤ 2 ^ 32 := Nat.pow_le_pow_right (by decide) (etWidth_le t)
  rw [etRep, h, if_neg Bool.false_ne_true, BitVec.toNat_ofNat, Nat.mod_eq_of_lt ((Nat.mod_lt _ (Nat.two_pow_pos _)).trans_le hw)]

/-- The three IEEE types (R83) are unsigned codes as wide as their format. -/
theorem ieee_type {t : Et} (h : t ∈ [0, 1, 2]) : etSigned t = false ∧ (etFmt t).w = etWidth t ∧ 0 < etWidth t := by
  simp only [List.mem_cons, List.not_mem_nil, or_false] at h
  obtain rfl | rfl | rfl := h <;> decide

/-- A flipped top bit is half the range added. -/
theorem xor_two_pow_eq {x k : Nat} (h : x < 2 ^ (k + 1)) : x ^^^ 2 ^ k = (x + 2 ^ k) % 2 ^ (k + 1) := by
  have hdiv : (x ^^^ 2 ^ k) / 2 ^ k = x / 2 ^ k ^^^ 1 := by
    rw [Nat.xor_div_two_pow, Nat.div_self (Nat.two_pow_pos k)]
  have hmod : (x ^^^ 2 ^ k) % 2 ^ k = x % 2 ^ k := by
    rw [Nat.xor_mod_two_pow, Nat.mod_self, Nat.xor_zero]
  have hp := Nat.two_pow_pos k
  rw [← Nat.div_add_mod (x ^^^ 2 ^ k) (2 ^ k), hdiv, hmod]
  rw [pow_succ] at h ⊢
  rcases Nat.lt_or_ge x (2 ^ k) with hx | hx
  · rw [Nat.div_eq_of_lt hx, Nat.mod_eq_of_lt hx, Nat.mod_eq_of_lt (by omega)]
    rw [Nat.zero_xor, Nat.mul_one, Nat.add_comm]
  · have h1 : x / 2 ^ k = 1 := Nat.div_eq_of_lt_le (by omega) (by omega)
    rw [h1, Nat.mod_eq_sub_mod hx, Nat.mod_eq_of_lt (by omega), Nat.mod_eq_sub_mod (by omega), Nat.mod_eq_of_lt (by omega)]
    rw [Nat.xor_self, Nat.mul_zero]
    omega

theorem laneFp_vabs {t : Et} (h : t ∈ [0, 1, 2]) (md : Round) (a b c : Elem) :
    (laneFp .vabs t md a b c).1.toNat = a.toNat % 2 ^ (etWidth t - 1) := by
  obtain ⟨hs, hw, -⟩ := ieee_type h
  have hle : 2 ^ (etWidth t - 1) ∣ 2 ^ etWidth t := Nat.pow_dvd_pow 2 (Nat.sub_le _ _)
  refine (etRep_toNat hs _).trans ?_
  rw [Fmt.abs, hw, etBits, Nat.mod_mod_of_dvd _ hle]
  exact Nat.mod_eq_of_lt ((Nat.mod_lt _ (Nat.two_pow_pos _)).trans_le (Nat.le_of_dvd (Nat.two_pow_pos _) hle))

theorem laneFp_vneg {t : Et} (h : t ∈ [0, 1, 2]) (md : Round) (a b c : Elem) :
    (laneFp .vneg t md a b c).1.toNat = (a.toNat % 2 ^ etWidth t + 2 ^ (etWidth t - 1)) % 2 ^ etWidth t := by
  obtain ⟨hs, hw, hpos⟩ := ieee_type h
  have hx := etBits_lt t a
  refine (etRep_toNat hs _).trans ?_
  rw [Fmt.neg, hw]
  obtain ⟨k, hk⟩ := Nat.exists_eq_add_one_of_ne_zero hpos.ne'
  rw [hk] at hx ⊢
  rw [Nat.add_sub_cancel, xor_two_pow_eq hx, Nat.mod_mod, etBits, hk]

/-! ### Indices -/

/-- An integer below 2^24, shifted until its top bit is bit 23. -/
theorem log2_shifted {i : Nat} (h0 : i ≠ 0) (h : i < 2 ^ 24) :
    i.log2 ≤ 23 ∧ 2 ^ 23 ≤ i * 2 ^ (23 - i.log2) ∧ i * 2 ^ (23 - i.log2) < 2 ^ 24 := by
  have hlog : i.log2 ≤ 23 := Nat.lt_succ_iff.mp ((Nat.log2_lt h0).mpr h)
  have hpow : 2 ^ i.log2 * 2 ^ (23 - i.log2) = 2 ^ 23 := by rw [← pow_add, Nat.add_sub_cancel' hlog]
  have hpos : 0 < 2 ^ (23 - i.log2) := Nat.two_pow_pos _
  have hlow := Nat.mul_le_mul_right (2 ^ (23 - i.log2)) (Nat.log2_self_le h0)
  have hhigh := Nat.mul_lt_mul_of_pos_right (Nat.lt_log2_self (n := i)) hpos
  rw [pow_succ, Nat.mul_right_comm, hpow] at hhigh
  exact ⟨hlog, hpow ▸ hlow, hhigh⟩

/-- An integer below 2^24 is exact in FP32: its top bit goes to the hidden bit. -/
theorem fp32_round_nat {i : Nat} (h0 : i ≠ 0) (h : i < 2 ^ 24) :
    (fp32.round .rne false i 0).1 = (i.log2 + 127) * 2 ^ 23 + (i * 2 ^ (23 - i.log2) - 2 ^ 23) := by
  obtain ⟨hlog, hlow, hhigh⟩ := log2_shifted h0 h
  have hn : (i * 2 ^ (23 - i.log2)).log2 = 23 := (Nat.log2_eq_iff (by omega)).mpr ⟨hlow, hhigh⟩
  have hq : max (topBit i 0) fp32.emin - fp32.fw = (i.log2 : Int) - 23 := by
    simp only [topBit, fp32, Fmt.fw]
    omega
  have hround : roundAt .rne false i 0 ((i.log2 : Int) - 23) = (i * 2 ^ (23 - i.log2), true) := by
    rw [roundAt, if_pos (by omega)]
    have : (0 - ((i.log2 : Int) - 23)).toNat = 23 - i.log2 := by omega
    rw [this]
  have hfw : fp32.fw = 23 := rfl
  have hp : fp32.p = 24 := rfl
  have hexp : ((i.log2 : Int) - 23 + fp32.fw + 1 - fp32.emin).toNat = i.log2 + 127 := by
    have hemin : fp32.emin = -126 := rfl
    rw [hfw, hemin]
    omega
  have hover : ¬ (i * 2 ^ (23 - i.log2) ≠ 0 ∧ fp32.emax < topBit (i * 2 ^ (23 - i.log2)) ((i.log2 : Int) - 23)) := by
    simp only [topBit, hn, fp32]
    omega
  rw [Fmt.round, if_neg h0]
  simp only [hq, hround, if_neg hover, hexp]
  rw [hfw, hp, if_neg (by omega), if_neg (by omega)]
  exact Nat.add_zero _

/-- The value of a positive normal FP32 code. -/
theorem codeValue_fp32_normal {ex fr : Nat} (h0 : ex ≠ 0) (h : ex < 255) (hf : fr < 2 ^ 23) :
    codeValue 24 8 (ex * 2 ^ 23 + fr) = some (((fr + 2 ^ 23 : Nat) : Rat) * 2 ^ ((ex : Int) - 150)) := by
  have hex : (ex * 2 ^ 23 + fr) / 2 ^ (24 - 1) % 2 ^ 8 = ex := by omega
  have hfr : (ex * 2 ^ 23 + fr) % 2 ^ (24 - 1) = fr := by omega
  have hsign : (ex * 2 ^ 23 + fr).testBit (24 + 8 - 1) = false := Nat.testBit_lt_two_pow (by omega)
  have hbias : (ex : Int) - (2 ^ (8 - 1) - 1) - (24 : Nat) + 1 = ex - 150 := by norm_num; omega
  simp only [codeValue, hex, hfr, hsign, if_neg h0, if_neg (show ¬ ex = 2 ^ 8 - 1 by omega), hbias]
  rfl

/-- The FP32 code of an integer below 2^24 (R123), zero included. -/
theorem codeValue_round_nat {i : Nat} (h : i < 2 ^ 24) :
    (fp32.round .rne false i 0).1 < 2 ^ 32 ∧ codeValue 24 8 (fp32.round .rne false i 0).1 = some (i : Rat) := by
  by_cases h0 : i = 0
  · subst h0
    refine ⟨by decide, ?_⟩
    norm_num [codeValue, Fmt.round, Fmt.zero]
  · obtain ⟨hlog, hlow, hhigh⟩ := log2_shifted h0 h
    rw [fp32_round_nat h0 h]
    refine ⟨by omega, ?_⟩
    rw [codeValue_fp32_normal (by omega) (by omega) (by omega), Nat.sub_add_cancel hlow]
    have hexp : ((i.log2 + 127 : Nat) : Int) - 150 = -((23 - i.log2 : Nat) : Int) := by omega
    rw [hexp, zpow_neg, zpow_natCast, Nat.cast_mul, Nat.cast_pow, Nat.cast_ofNat]
    exact congrArg some (mul_inv_cancel_right₀ (by positivity) _)

/-- The index of an element that AXIS selects. -/
def iotaIndex (axis r c : Nat) : Nat := if axis = 0 then c else if axis = 1 then r else 64 * r + c

theorem iotaIndex_lt (axis : Nat) {r c : Nat} (hr : r < 16) (hc : c < 64) : iotaIndex axis r c < 1024 := by
  rw [iotaIndex]
  split
  · omega
  · split <;> omega

theorem codeValue_laneIota (axis : Nat) {r c : Nat} (hr : r < 16) (hc : c < 64) :
    codeValue 24 8 (laneIota 0 axis r c).toNat = some (iotaIndex axis r c : Rat) := by
  obtain ⟨hlt, hval⟩ := codeValue_round_nat ((iotaIndex_lt axis hr hc).trans (by decide))
  change codeValue 24 8 (etRep 0 (fp32.round .rne false (iotaIndex axis r c) 0).1).toNat = _
  rw [etRep_toNat rfl, show etWidth 0 = 32 from rfl, Nat.mod_eq_of_lt hlt, hval]

theorem laneIota_toNat {t : Et} (ht : t ≠ 0) (axis : Nat) {r c : Nat} (hr : r < 16) (hc : c < 64) :
    (laneIota t axis r c).toNat = iotaIndex axis r c := by
  rw [laneIota, if_neg ht, BitVec.toNat_ofNat]
  exact Nat.mod_eq_of_lt ((iotaIndex_lt axis hr hc).trans (by decide))

/-! ### Moves across lanes -/

theorem VReg.at_congr (v : VReg) {r r' c c' : Nat} (hr : r % 16 = r' % 16) (hc : c % 64 = c' % 64) : v.at r c = v.at r' c' := by
  simp only [VReg.at, hr, hc]

/-- Row `r` of a mask as it stands (R11, R127). -/
theorem Vu.mask_row (u : Vu) (i : BitVec 3) {r : Nat} (hr : r < 16) :
    (u.mask i).row r = if i = 0 then BitVec.allOnes 64 else (u.k[i.toNat]'i.isLt)[r] := by
  rw [MReg.row_of_lt _ hr, Vu.mask]
  split
  · exact Vector.getElem_replicate hr
  · rfl

/-- `kpop` counts at most the 64 bits of a row. -/
theorem count_toNat (b : BitVec 64) :
    (BitVec.ofNat 32 ((List.range 64).filter b.getLsbD).length).toNat = ((List.range 64).filter b.getLsbD).length := by
  have := List.length_filter_le b.getLsbD (List.range 64)
  rw [List.length_range] at this
  rw [BitVec.toNat_ofNat, Nat.mod_eq_of_lt (by omega)]

/-! ### The issue of the words -/

/-- What the opcodes of R118, R122, R123, R125 and R127 share, all but `vsel`: they raise no flag. -/
theorem moveWord {op : VOp} (h : op ∈ [VOp.vabs, .vneg, .vmov, .vbcs, .viota, .kpop, .vrotr, .vrotc, .vbcr, .vbcc, .vshuf]) :
    byLanes op = true ∧ ∀ m rd r c, (laneOf op m rd r c).2 = 0 := by
  cases op with
  | vabs | vneg | vmov | vbcs | viota | kpop | vrotr | vrotc | vbcr | vbcc | vshuf => exact ⟨rfl, fun _ _ _ _ => rfl⟩
  | _ => exact absurd h (by decide)

/-- Every element of `vsel`'s result (R122). -/
def selReg (gov : MReg) (rd : Reads) : VReg :=
  Vector.ofFn fun j => if gov.at (j.val / 64) (j.val % 64) then rd.va[j] else rd.vb[j]

theorem Ctx.issue_vsel {x : Ctx} {e : VEntry} (hd : e.dropped = false) {n free : Nat} {rd : Reads} {k : MReg}
    (hk : x.vu.readK (modOf .vsel e.gt).k n free = k)
    (ha : x.vu.readV e.f.a n (free + 1024) = rd.va) (hb : x.vu.readV e.f.b n (free + 2048) = rd.vb) :
    let m := modOf .vsel e.gt
    x.issue e .vsel n free = { x.warned m with
      vu := x.vu.writeV e.f.d n 2 (free + 6144) allMask (selReg (govern k m.kn) rd) } := by
  subst hk
  unfold selReg
  rw [← ha, ← hb]
  obtain ⟨num, op', f, gs, gt, load, store, dropped, tag⟩ := e
  obtain rfl : dropped = false := hd
  rfl

section
variable {s : State} {p : Nat} {e : VEntry} {rest : List VEntry}

/-- R122: what `vsel` leaves where no window runs. -/
theorem vuIssue_ctx_vsel (h : vuReady s p e rest ((s.core p).ctx.vu.slot + 1 + e.f.p.toNat)) (hop : e.op = some .vsel) :
    let x := (s.core p).ctx
    let n := x.vu.slot + 1 + e.f.p.toNat
    let m := modOf .vsel e.gt
    ((s.vuIssue p 0).core p).ctx = { (x.atSlot rest n).warned m with
      vu := (x.atSlot rest n).vu.writeV e.f.d n 2 (s.free + 6144) allMask (selReg (govern (x.vu.mask m.k) m.kn) (x.reads e)) } := by
  have hd : e.dropped = false := not_dropped_of_ready h
  have hi : (s.core p).ctx.issuable e = true := by rw [Ctx.issuable, hop]
  rw [vuIssue_of_ready h hop hi rfl]
  exact Ctx.issue_vsel hd (readK_of_ready h _ _) (readV_of_ready h _ _) (readV_of_ready h _ _)

theorem vuIssue_elem_vsel (h : vuReady s p e rest ((s.core p).ctx.vu.slot + 1 + e.f.p.toNat)) (hop : e.op = some .vsel) (j : Fin 1024) :
    let x := (s.core p).ctx
    let m := modOf .vsel e.gt
    ((((s.vuIssue p 0).core p).ctx.vu.v[e.f.d.toNat]'e.f.d.isLt)[j]) =
      if governs x m.k m.kn j then (x.vu.v[e.f.a.toNat]'e.f.a.isLt)[j] else (x.vu.v[e.f.b.toNat]'e.f.b.isLt)[j] := by
  intro x m
  rw [vuIssue_ctx_vsel h hop]
  dsimp only
  rw [Vu.writeV_self (quietV_of_ready h _), allMask_at _ (Nat.mod_lt _ (by decide)), if_pos rfl, selReg, Fin.getElem_fin,
    Vector.getElem_ofFn, governs_eq]
  rfl

/-- What all twelve words keep: no flag is raised, and the masks and the other vector registers stand. -/
theorem vuIssue_frame_moves {op : VOp} (h : vuReady s p e rest ((s.core p).ctx.vu.slot + 1 + e.f.p.toNat)) (hop : e.op = some op)
    (hmem : op ∈ [VOp.vabs, .vneg, .vsel, .vmov, .vbcs, .viota, .kpop, .vrotr, .vrotc, .vbcr, .vbcc, .vshuf]) :
    let x := (s.core p).ctx
    let n := x.vu.slot + 1 + e.f.p.toNat
    let y := ((s.vuIssue p 0).core p).ctx
    (y.vu.slot = n ∧ y.vu.queue = rest ∧ (y.vu.vwin[e.f.d.toNat]'e.f.d.isLt).due = n + bound op ∧ y.vu.k = x.vu.k ∧
      ∀ i : BitVec 4, i ≠ e.f.d → y.vu.v[i.toNat]'i.isLt = x.vu.v[i.toNat]'i.isLt) ∧ y.vufl = x.vufl := by
  by_cases hs : op = .vsel
  · subst hs
    refine ⟨frame_of_writeV h (congrArg Ctx.vu (vuIssue_ctx_vsel h hop)), ?_⟩
    rw [vuIssue_ctx_vsel h hop]
    exact Ctx.warned_vufl _ _
  · obtain ⟨hl, hfl⟩ := moveWord (op := op) (by simpa [hs] using hmem)
    exact ⟨frame_of_writeV h (congrArg Ctx.vu (vuIssue_ctx h hop hl)), vuIssue_vufl_of_none h hop hl hfl⟩

end

/-- The bounds of these words (R20). -/
theorem bound_moves {op : VOp}
    (h : op ∈ [VOp.vabs, .vneg, .vsel, .vmov, .vbcs, .viota, .kpop, .vrotr, .vrotc, .vbcr, .vbcc, .vshuf]) :
    bound op = if op ∈ [VOp.vabs, .vneg] then 4 else if op ∈ [VOp.vrotc, .vbcc] then 3
      else if op ∈ [VOp.vrotr, .vbcr, .vshuf] then 6 else 2 := by
  cases op with
  | vabs | vneg | vsel | vmov | vbcs | viota | kpop | vrotr | vrotc | vbcr | vbcc | vshuf => rfl
  | _ => exact absurd h (by decide)

/-- Settles O36: `vuIssue_frame_moves` is the frame, `vuIssue_elem_vsel` and `vuIssue_elem` give the elements, and the lemmas on the lanes
their values. -/
theorem vuMoves : Obligations.VuMoves := by
  unfold Obligations.VuMoves
  intro s p e rest op hop x n m y w v h hmem
  obtain ⟨⟨hslot, hqueue, hdue, hk, hframe⟩, hfl⟩ := vuIssue_frame_moves h hop hmem
  rw [bound_moves hmem] at hdue
  refine ⟨hslot, hqueue, hk, hfl, hdue, hframe, ?_⟩
  intro j at_ a b r low row col rowOfA
  have hrow : row < 16 := Nat.div_lt_of_lt_mul j.isLt
  have hcol : col < 64 := Nat.mod_lt _ (by decide)
  by_cases hs : op = .vsel
  · subst hs
    refine ⟨fun _ => vuIssue_elem_vsel h hop j, fun hne => absurd rfl hne, fun _ => ?_⟩
    simp
  obtain ⟨hl, -⟩ := moveWord (op := op) (by simpa [hs] using hmem)
  obtain ⟨-, -, -, -, -, -, hout⟩ := vuIssue_writes h hop hl
  refine ⟨fun he => absurd he hs, fun _ => hout j, fun hg => ?_⟩
  let rd := x.reads e
  have hr : r = (laneOf op m rd row col).1 := (vuIssue_elem h hop hl j).trans (if_pos hg)
  have ha : rd.va.at row col = a := VReg.at_index _ j
  have hb : rd.vb.at row col = b := VReg.at_index _ j
  rw [hr]
  refine ⟨?_, ?_, ?_, ?_, ?_, ?_, ?_, ?_, ?_, ?_, ?_⟩
  all_goals
    intro ho
    subst ho
  case refine_1 =>
    rw [← ha]
    exact laneFp_vabs (modOf_et_mem rfl (by decide) _) rd.md _ (rd.vb.at row col) (rd.vd.at row col)
  case refine_2 =>
    rw [show low = a.toNat % 2 ^ w from rfl, ← ha]
    exact laneFp_vneg (modOf_et_mem rfl (by decide) _) rd.md _ (rd.vb.at row col) (rd.vd.at row col)
  case refine_3 => exact ha
  case refine_4 => exact BitVec.toNat_setWidth ..
  case refine_5 =>
    intro i
    refine ⟨fun ht => laneIota_toNat ht _ hrow hcol, fun ht => ?_⟩
    have := codeValue_laneIota m.axis hrow hcol
    rw [← ht] at this
    exact this
  case refine_6 =>
    have hra : rd.ka.row row = rowOfA := Vu.mask_row _ _ hrow
    rw [← hra]
    exact count_toNat _
  case refine_7 => exact fun c hc hcv => VReg.at_congr _ rfl (show (col + 64 - v % 64) % 64 = c % 64 by omega)
  case refine_8 => exact fun i hi hiv => VReg.at_congr _ (show (row + 16 - v % 16) % 16 = i % 16 by omega) rfl
  case refine_9 => rfl
  case refine_10 => rfl
  case refine_11 =>
    rw [← hb]
    exact VReg.at_congr _ rfl (Nat.mod_mod _ _)

end Sys2Proof.Machine
end

section
/-!
PROOFS. The order of floating-point codes (R83, R87, R121): what a code stands for by its fields, and that the model's comparison of two values
is the comparison of the codes' keys (`Fmt.cmp_eq_compare_codeKey`).
-/

namespace Sys2Proof.Machine

/-! ### Signed magnitudes -/

/-- A magnitude with a sign. -/
def signedMag (neg : Bool) (n : Nat) : Int := if neg then -(n : Int) else n

theorem codeKey_eq_signedMag (w x : Nat) : codeKey w x = signedMag (x.testBit (w - 1)) (x % 2 ^ (w - 1)) := rfl

theorem signedMag_not (neg : Bool) (n : Nat) : signedMag (!neg) n = -signedMag neg n := by
  cases neg
  · rfl
  · exact (neg_neg _).symm

theorem signedMag_mul (neg : Bool) (m n : Nat) : signedMag neg (m * n) = signedMag neg m * n := by
  cases neg
  · exact Nat.cast_mul m n
  · simp only [signedMag, if_true, Nat.cast_mul, neg_mul]

/-- A strictly increasing scale from 0 keeps the order of signed magnitudes. -/
theorem signedMag_lt_iff {g : Nat → Nat} (hg : StrictMono g) (h0 : g 0 = 0) (sa sb : Bool) (a b : Nat) :
    signedMag sa (g a) < signedMag sb (g b) ↔ signedMag sa a < signedMag sb b := by
  have hab : g a < g b ↔ a < b := hg.lt_iff_lt
  have hba : g b < g a ↔ b < a := hg.lt_iff_lt
  have hpos (n : Nat) : 0 < g n ↔ 0 < n := by
    have := hg.lt_iff_lt (a := 0) (b := n)
    rwa [h0] at this
  have ha := hpos a
  have hb := hpos b
  cases sa <;> cases sb <;> simp only [signedMag, if_true, Bool.false_eq_true, if_false] <;> omega

/-- Two comparisons agree where both strict orders do. -/
theorem compare_congr {a b c d : Int} (h1 : a < b ↔ c < d) (h2 : b < a ↔ d < c) : compare a b = compare c d := by
  rcases lt_trichotomy c d with h | h | h
  · rw [compare_lt_iff_lt.mpr h, compare_lt_iff_lt.mpr (h1.mpr h)]
  · rw [compare_eq_iff_eq.mpr h, compare_eq_iff_eq.mpr (by omega)]
  · rw [compare_gt_iff_gt.mpr h, compare_gt_iff_gt.mpr (h2.mpr h)]

/-- Against a smaller magnitude the sign of the larger decides. -/
theorem compare_signedMag_lt {a b : Nat} (h : b < a) (sa sb : Bool) :
    compare (signedMag sa a) (signedMag sb b) = if sa then .lt else .gt := by
  cases sa
  · exact compare_gt_iff_gt.mpr (by cases sb <;> simp only [signedMag, if_true, Bool.false_eq_true, if_false] <;> omega)
  · exact compare_lt_iff_lt.mpr (by cases sb <;> simp only [signedMag, if_true, Bool.false_eq_true, if_false] <;> omega)

theorem compare_signedMag_gt {a b : Nat} (h : a < b) (sa sb : Bool) :
    compare (signedMag sa a) (signedMag sb b) = if sb then .gt else .lt := by
  cases sb
  · exact compare_lt_iff_lt.mpr (by cases sa <;> simp only [signedMag, if_true, Bool.false_eq_true, if_false] <;> omega)
  · exact compare_gt_iff_gt.mpr (by cases sa <;> simp only [signedMag, if_true, Bool.false_eq_true, if_false] <;> omega)

theorem compare_signedMag_self {a : Nat} (h : 0 < a) (sa sb : Bool) :
    compare (signedMag sa a) (signedMag sb a) = if sa = sb then .eq else if sa then .lt else .gt := by
  by_cases hs : sa = sb
  · rw [if_pos hs, hs]
    exact compare_eq_iff_eq.mpr rfl
  · rw [if_neg hs]
    cases sa <;> cases sb
    · exact absurd rfl hs
    · exact compare_gt_iff_gt.mpr (by simp only [signedMag, if_true, Bool.false_eq_true, if_false]; omega)
    · exact compare_lt_iff_lt.mpr (by simp only [signedMag, if_true, Bool.false_eq_true, if_false]; omega)
    · exact absurd rfl hs

/-! ### The magnitude of a code -/

/-- The magnitude of a code without its sign, in units of the smallest subnormal number. -/
def Fmt.scaled (f : Fmt) (l : Nat) : Nat :=
  if l / 2 ^ f.fw = 0 then l % 2 ^ f.fw else (l % 2 ^ f.fw + 2 ^ f.fw) * 2 ^ (l / 2 ^ f.fw - 1)

theorem Fmt.scaled_lt (f : Fmt) (l : Nat) : f.scaled l < 2 ^ f.fw * 2 ^ (l / 2 ^ f.fw) := by
  have hr : l % 2 ^ f.fw < 2 ^ f.fw := Nat.mod_lt _ (Nat.two_pow_pos _)
  rw [Fmt.scaled]
  split
  · next h => rwa [h, pow_zero, Nat.mul_one]
  · next h =>
    obtain ⟨k, hk⟩ := Nat.exists_eq_add_one_of_ne_zero h
    rw [hk, Nat.add_sub_cancel, pow_succ, ← Nat.mul_assoc, Nat.mul_right_comm]
    exact Nat.mul_lt_mul_of_pos_right (by omega) (Nat.two_pow_pos k)

theorem Fmt.le_scaled (f : Fmt) {l : Nat} (h : l / 2 ^ f.fw ≠ 0) : 2 ^ f.fw * 2 ^ (l / 2 ^ f.fw - 1) ≤ f.scaled l := by
  rw [Fmt.scaled, if_neg h]
  exact Nat.mul_le_mul_right _ (Nat.le_add_left _ _)

/-- A larger code is a larger magnitude. -/
theorem Fmt.scaled_strictMono (f : Fmt) : StrictMono f.scaled := by
  intro a b hab
  rcases (Nat.div_le_div_right (c := 2 ^ f.fw) hab.le).lt_or_eq with h | h
  · calc f.scaled a < 2 ^ f.fw * 2 ^ (a / 2 ^ f.fw) := f.scaled_lt a
      _ ≤ 2 ^ f.fw * 2 ^ (b / 2 ^ f.fw - 1) := Nat.mul_le_mul_left _ (Nat.pow_le_pow_right (by decide) (Nat.le_sub_one_of_lt h))
      _ ≤ f.scaled b := f.le_scaled (Nat.ne_zero_of_lt h)
  · have hfr : a % 2 ^ f.fw < b % 2 ^ f.fw := by
      have ha := Nat.div_add_mod a (2 ^ f.fw)
      have hb := Nat.div_add_mod b (2 ^ f.fw)
      rw [h] at ha
      omega
    rw [Fmt.scaled, Fmt.scaled, h]
    split
    · exact hfr
    · exact Nat.mul_lt_mul_of_pos_right (by omega) (Nat.two_pow_pos _)

theorem Fmt.scaled_zero (f : Fmt) : f.scaled 0 = 0 := by
  rw [Fmt.scaled, Nat.zero_div, if_pos rfl, Nat.zero_mod]

/-! ### What a code stands for -/

section
variable {f : Fmt} (hp : 0 < f.p) (x : Nat)
include hp

/-- The bits below the sign are the exponent and fraction fields. -/
theorem Fmt.w_sub_one : f.w - 1 = f.fw + f.ew := by
  rw [Fmt.w, Fmt.fw]
  omega

theorem Fmt.low_div : x % 2 ^ (f.w - 1) / 2 ^ f.fw = x / 2 ^ f.fw % 2 ^ f.ew := by
  rw [Fmt.w_sub_one hp, pow_add, Nat.mod_mul_right_div_self]

theorem Fmt.low_mod : x % 2 ^ (f.w - 1) % 2 ^ f.fw = x % 2 ^ f.fw := by
  rw [Fmt.w_sub_one hp, pow_add, Nat.mod_mul_right_mod]

/-- A finite code: a significand and a power of two, whose product is the magnitude of the code. -/
theorem Fmt.get_finite (h : x / 2 ^ f.fw % 2 ^ f.ew ≠ 2 ^ f.ew - 1) : ∃ m k : Nat,
    f.get x = .fin (x.testBit (f.w - 1)) m (f.emin - f.fw + k) ∧ m * 2 ^ k = f.scaled (x % 2 ^ (f.w - 1)) := by
  rw [Fmt.scaled, Fmt.low_div hp, Fmt.low_mod hp]
  by_cases h0 : x / 2 ^ f.fw % 2 ^ f.ew = 0
  · refine ⟨x % 2 ^ f.fw, 0, ?_, ?_⟩
    · simp only [Fmt.get, if_neg h, if_pos h0]
      simp
    · rw [if_pos h0, pow_zero, Nat.mul_one]
  · refine ⟨x % 2 ^ f.fw + 2 ^ f.fw, x / 2 ^ f.fw % 2 ^ f.ew - 1, ?_, ?_⟩
    · simp only [Fmt.get, if_neg h, if_neg h0]
      congr 1
      omega
    · rw [if_neg h0]

omit hp in
theorem Fmt.get_inf (h : x / 2 ^ f.fw % 2 ^ f.ew = 2 ^ f.ew - 1) (h0 : x % 2 ^ f.fw = 0) : f.get x = .inf (x.testBit (f.w - 1)) := by
  simp only [Fmt.get, if_pos h, if_pos h0]

omit hp in
theorem Fmt.get_nan (h : x / 2 ^ f.fw % 2 ^ f.ew = 2 ^ f.ew - 1) (h0 : x % 2 ^ f.fw ≠ 0) :
    f.get x = .nan (x.testBit (f.w - 1)) (!(x % 2 ^ f.fw).testBit (f.fw - 1)) := by
  simp only [Fmt.get, if_pos h, if_neg h0]

/-- An infinity has the largest magnitude of the codes that are no NaN (R83). -/
theorem Fmt.low_inf (h : x / 2 ^ f.fw % 2 ^ f.ew = 2 ^ f.ew - 1) (h0 : x % 2 ^ f.fw = 0) :
    x % 2 ^ (f.w - 1) = (2 ^ f.ew - 1) * 2 ^ f.fw := by
  rw [← Nat.div_add_mod (x % 2 ^ (f.w - 1)) (2 ^ f.fw), Fmt.low_div hp, Fmt.low_mod hp, h, h0, Nat.add_zero, Nat.mul_comm]

theorem Fmt.low_finite_lt (h : x / 2 ^ f.fw % 2 ^ f.ew ≠ 2 ^ f.ew - 1) : x % 2 ^ (f.w - 1) < (2 ^ f.ew - 1) * 2 ^ f.fw := by
  have hlt : x / 2 ^ f.fw % 2 ^ f.ew < 2 ^ f.ew := Nat.mod_lt _ (Nat.two_pow_pos _)
  rw [← Nat.div_lt_iff_lt_mul (Nat.two_pow_pos _), Fmt.low_div hp]
  omega

end

theorem Fmt.isNan_eq (f : Fmt) (x : Nat) :
    f.isNan x = decide (x / 2 ^ f.fw % 2 ^ f.ew = 2 ^ f.ew - 1 ∧ x % 2 ^ f.fw ≠ 0) := by
  by_cases h : x / 2 ^ f.fw % 2 ^ f.ew = 2 ^ f.ew - 1
  · by_cases h0 : x % 2 ^ f.fw = 0
    · rw [Fmt.isNan, Fmt.get_inf x h h0, decide_eq_false fun hn => hn.2 h0]
    · rw [Fmt.isNan, Fmt.get_nan x h h0, decide_eq_true ⟨h, h0⟩]
  · rw [decide_eq_false fun hn => h hn.1]
    by_cases h0 : x / 2 ^ f.fw % 2 ^ f.ew = 0
    · simp only [Fmt.isNan, Fmt.get, if_neg h, if_pos h0]
    · simp only [Fmt.isNan, Fmt.get, if_neg h, if_neg h0]

/-- A signalling NaN, as the statements describe it (R83). -/
theorem Fmt.isSig_of_isNanCode {f : Fmt} (hp : 2 ≤ f.p) {x : Nat} (h : isNanCode f.p f.ew x true) : f.isSig x = true := by
  obtain ⟨hex, hfr, hq⟩ := h
  rw [Fmt.isSig, Fmt.get_nan x hex hfr]
  have hbit : (x % 2 ^ f.fw).testBit (f.fw - 1) = x.testBit (f.p - 2) := by
    rw [Nat.testBit_mod_two_pow, decide_eq_true (by rw [Fmt.fw]; omega), Bool.true_and]
    congr 1
  rw [hbit, hq]
  rfl

theorem Fmt.isNan_of_isNanCode {f : Fmt} {x : Nat} {g : Bool} (h : isNanCode f.p f.ew x g) : f.isNan x = true := by
  obtain ⟨hex, hfr, -⟩ := h
  rw [Fmt.isNan_eq]
  exact decide_eq_true ⟨hex, hfr⟩

/-! ### The comparison -/

/-- The sign and the zero of an exact sum, in units of 2^b. -/
theorem exactAdd_sign (sa sb : Bool) (ma mb ka kb : Nat) (b : Int) :
    let r := exactAdd sa ma (b + ka) sb mb (b + kb)
    let v := signedMag sa (ma * 2 ^ ka) + signedMag sb (mb * 2 ^ kb)
    (r.2.1 = 0 ↔ v = 0) ∧ (r.1 = true ↔ v < 0) := by
  intro r v
  let u := signedMag sa (ma * 2 ^ (ka - min ka kb)) + signedMag sb (mb * 2 ^ (kb - min ka kb))
  have hr : r = (decide (u < 0), u.natAbs, min (b + ka) (b + kb)) := by
    have ha : (b + ka - min (b + ka) (b + kb)).toNat = ka - min ka kb := by omega
    have hb : (b + kb - min (b + ka) (b + kb)).toNat = kb - min ka kb := by omega
    simp only [r, exactAdd, ha, hb]
    rfl
  have hscale (s : Bool) (m k : Nat) (hk : min ka kb ≤ k) :
      signedMag s (m * 2 ^ k) = signedMag s (m * 2 ^ (k - min ka kb)) * (2 ^ min ka kb : Nat) := by
    rw [← signedMag_mul, Nat.mul_assoc, ← pow_add, Nat.sub_add_cancel hk]
  have hv : v = u * (2 ^ min ka kb : Nat) := by
    simp only [v, u]
    rw [hscale sa ma ka (min_le_left _ _), hscale sb mb kb (min_le_right _ _), Int.add_mul]
  have hpos : (0 : Int) < (2 ^ min ka kb : Nat) := by exact_mod_cast Nat.two_pow_pos _
  rw [hr, hv]
  refine ⟨?_, ?_⟩
  · rw [Int.natAbs_eq_zero, Int.mul_eq_zero]
    exact (or_iff_left hpos.ne').symm
  · rw [decide_eq_true_iff]
    constructor
    · exact fun hu => Int.mul_neg_of_neg_of_pos hu hpos
    · exact fun hu => neg_of_mul_neg_left hu hpos.le

theorem ite_exactAdd_eq_compare (sa sb : Bool) (ma mb ka kb : Nat) (b : Int) :
    (let r := exactAdd sa ma (b + ka) (!sb) mb (b + kb)
     if r.2.1 = 0 then Ordering.eq else if r.1 then .lt else .gt) =
      compare (signedMag sa (ma * 2 ^ ka)) (signedMag sb (mb * 2 ^ kb)) := by
  obtain ⟨hzero, hneg⟩ := exactAdd_sign sa (!sb) ma mb ka kb b
  rw [signedMag_not] at hzero hneg
  dsimp only
  rcases lt_trichotomy (signedMag sa (ma * 2 ^ ka)) (signedMag sb (mb * 2 ^ kb)) with h | h | h
  · rw [if_neg (hzero.not.mpr (by omega)), if_pos (hneg.mpr (by omega)), compare_lt_iff_lt.mpr h]
  · rw [if_pos (hzero.mpr (by omega)), compare_eq_iff_eq.mpr h]
  · rw [if_neg (hzero.not.mpr (by omega)), if_neg (hneg.not.mpr (by omega)), compare_gt_iff_gt.mpr h]

/-- R83, R121: codes that are no NaNs compare by their keys. -/
theorem Fmt.cmp_eq_compare_codeKey {f : Fmt} (hp : 0 < f.p) (he : 0 < f.ew) {x y : Nat} (hx : f.isNan x = false)
    (hy : f.isNan y = false) : f.cmp x y = compare (codeKey f.w x) (codeKey f.w y) := by
  rw [Fmt.isNan_eq, decide_eq_false_iff_not, not_and_not_right] at hx hy
  rw [codeKey_eq_signedMag, codeKey_eq_signedMag]
  have htop : 0 < (2 ^ f.ew - 1) * 2 ^ f.fw :=
    Nat.mul_pos (Nat.sub_pos_of_lt (Nat.one_lt_two_pow he.ne')) (Nat.two_pow_pos _)
  by_cases hxe : x / 2 ^ f.fw % 2 ^ f.ew = 2 ^ f.ew - 1
  · rw [Fmt.low_inf hp x hxe (hx hxe), Fmt.cmp, Fmt.get_inf x hxe (hx hxe)]
    by_cases hye : y / 2 ^ f.fw % 2 ^ f.ew = 2 ^ f.ew - 1
    · rw [Fmt.low_inf hp y hye (hy hye), Fmt.get_inf y hye (hy hye)]
      exact (compare_signedMag_self htop _ _).symm
    · obtain ⟨m, k, hgy, -⟩ := Fmt.get_finite hp y hye
      rw [hgy]
      exact (compare_signedMag_lt (Fmt.low_finite_lt hp y hye) _ _).symm
  · obtain ⟨mx, kx, hgx, hmx⟩ := Fmt.get_finite hp x hxe
    rw [Fmt.cmp, hgx]
    by_cases hye : y / 2 ^ f.fw % 2 ^ f.ew = 2 ^ f.ew - 1
    · rw [Fmt.low_inf hp y hye (hy hye), Fmt.get_inf y hye (hy hye)]
      exact (compare_signedMag_gt (Fmt.low_finite_lt hp x hxe) _ _).symm
    · obtain ⟨my, ky, hgy, hmy⟩ := Fmt.get_finite hp y hye
      have hscale := signedMag_lt_iff f.scaled_strictMono f.scaled_zero
      rw [hgy, ← compare_congr (hscale _ _ _ _) (hscale _ _ _ _), ← hmx, ← hmy]
      exact ite_exactAdd_eq_compare _ _ _ _ _ _ _

end Sys2Proof.Machine
end

section
/-!
PROOFS. The words that write masks or read one element (R121, R124, R126): the conditions of `vcmp` and `vcmps` on integers and on
floating-point codes, the bits that they write, the operations of `kop`, and `vget` (`VuMasks`).
-/

namespace Sys2Proof.Machine

/-! ### Conditions -/

theorem bne_eq_decide_ne {α : Type} [DecidableEq α] (a b : α) : (a != b) = decide (a ≠ b) := by
  rw [bne, beq_eq_decide, decide_not]

theorem etInt_of_le {t : Et} (h3 : 3 ≤ t) (h8 : t ≤ 8) : etInt t = true := by
  rw [etInt, decide_eq_true h3, decide_eq_true h8]
  rfl

/-- R120, R121: a condition on two elements of an integer type; it raises no flag. -/
theorem laneCmp_int {t : Et} (h : etInt t = true) (cond : Nat) (a b : Elem) :
    laneCmp t cond a b = (intHolds cond (etVal t a) (etVal t b) (etBits t a) (etBits t b), 0) := by
  rw [laneCmp, if_pos h]
  refine Prod.ext ?_ rfl
  dsimp only
  match cond with
  | 0 | 2 | 3 | 4 | 5 => rfl
  | 1 => exact bne_eq_decide_ne _ _
  | 6 => exact bne_eq_decide_ne _ _
  | n + 7 => rfl

/-- The three IEEE types and their formats (R83). -/
theorem ieeeOf_eq {t : Et} (h : t ≤ 2) :
    etInt t = false ∧ ieeeOf t = ((etFmt t).p, (etFmt t).ew) ∧ 2 ≤ (etFmt t).p ∧ 0 < (etFmt t).ew := by
  match t with
  | 0 | 1 | 2 => decide

theorem floatHolds_of_nan {f : Fmt} {a b : Nat} (h : (f.isNan a || f.isNan b) = true) (c : Nat) :
    floatHolds f.p f.ew c a b = decide (c = 1 ∨ c = 6) := by
  rw [Fmt.isNan_eq, Fmt.isNan_eq] at h
  exact if_pos h

theorem floatHolds_of_numbers {f : Fmt} {a b : Nat} (h : ¬ (f.isNan a || f.isNan b) = true) (c : Nat) :
    let x := codeKey f.w a
    let y := codeKey f.w b
    floatHolds f.p f.ew c a b =
      if c = 0 then decide (x = y) else if c = 1 then decide (x ≠ y) else if c = 2 then decide (x < y) else if c = 3 then decide (y ≤ x)
      else if c = 4 then decide (x ≤ y) else if c = 5 then decide (y < x) else decide (c = 7) := by
  rw [Fmt.isNan_eq, Fmt.isNan_eq] at h
  exact if_neg h

/-- R121: a condition on two codes of a floating-point type. -/
theorem laneCmp_float {t : Et} (h : t ≤ 2) {cond : Nat} (hc : cond ≤ 7) (a b : Elem) :
    (laneCmp t cond a b).1 = floatHolds (etFmt t).p (etFmt t).ew cond (etBits t a) (etBits t b) := by
  obtain ⟨hi, -, hp, hew⟩ := ieeeOf_eq h
  rw [laneCmp, hi, if_neg Bool.false_ne_true]
  dsimp only
  by_cases hn : ((etFmt t).isNan (etBits t a) || (etFmt t).isNan (etBits t b)) = true
  · rw [if_pos hn, floatHolds_of_nan hn]
    exact (Bool.decide_or _ _).symm
  · rw [if_neg hn, floatHolds_of_numbers hn]
    rw [Bool.or_eq_true, not_or, Bool.not_eq_true, Bool.not_eq_true] at hn
    obtain ⟨ha, hb⟩ := hn
    rw [Fmt.cmp_eq_compare_codeKey (by omega) hew ha hb]
    generalize codeKey (etFmt t).w (etBits t a) = x
    generalize codeKey (etFmt t).w (etBits t b) = y
    match cond with
    | 0 => exact decide_eq_decide.mpr compare_eq_iff_eq
    | 1 => exact (bne_eq_decide_ne _ _).trans (decide_eq_decide.mpr compare_eq_iff_eq.not)
    | 2 => exact decide_eq_decide.mpr compare_lt_iff_lt
    | 3 => exact (bne_eq_decide_ne _ _).trans (decide_eq_decide.mpr compare_ge_iff_ge)
    | 4 => exact (bne_eq_decide_ne _ _).trans (decide_eq_decide.mpr compare_le_iff_le)
    | 5 => exact decide_eq_decide.mpr compare_gt_iff_gt
    | 6 => rfl
    | 7 => rfl

/-- R86, R121: a signalling NaN, or any NaN under an ordering condition, raises NV. -/
theorem laneCmp_invalid {t : Et} (h : t ≤ 2) {cond : Nat} (a b : Elem)
    (hv : isNanCode (etFmt t).p (etFmt t).ew (etBits t a) true ∨ isNanCode (etFmt t).p (etFmt t).ew (etBits t b) true ∨
      (2 ≤ cond ∧ cond ≤ 5 ∧ (isNanCode (etFmt t).p (etFmt t).ew (etBits t a) false ∨
        isNanCode (etFmt t).p (etFmt t).ew (etBits t b) false))) :
    (laneCmp t cond a b).2 = flNV := by
  obtain ⟨hi, -, hp, hew⟩ := ieeeOf_eq h
  have hn : ((etFmt t).isNan (etBits t a) || (etFmt t).isNan (etBits t b)) = true := by
    rw [Bool.or_eq_true]
    obtain ha | hb | ⟨-, -, ha | hb⟩ := hv
    · exact .inl (Fmt.isNan_of_isNanCode ha)
    · exact .inr (Fmt.isNan_of_isNanCode hb)
    · exact .inl (Fmt.isNan_of_isNanCode ha)
    · exact .inr (Fmt.isNan_of_isNanCode hb)
  have hs : ((etFmt t).isSig (etBits t a) || (etFmt t).isSig (etBits t b) || (decide (2 ≤ cond) && decide (cond ≤ 5))) = true := by
    rw [Bool.or_eq_true, Bool.or_eq_true, Bool.and_eq_true, decide_eq_true_iff, decide_eq_true_iff]
    obtain ha | hb | ⟨h2, h5, -⟩ := hv
    · exact .inl (.inl (Fmt.isSig_of_isNanCode hp ha))
    · exact .inl (.inr (Fmt.isSig_of_isNanCode hp hb))
    · exact .inr ⟨h2, h5⟩
  rw [laneCmp, hi, if_neg Bool.false_ne_true]
  dsimp only
  rw [if_pos hn]
  exact if_pos hs

theorem modOf_cond_le (op : VOp) (w : Word) : (modOf op w).cond ≤ 7 := by
  change (if decide (condCount op ≤ wbits w 15 13) = true then 0 else wbits w 15 13) ≤ 7
  split
  · decide
  · exact Nat.lt_succ_iff.mp (Nat.mod_lt _ (by decide))

/-! ### Bits collected into a row -/

theorem foldl_setBits_getLsbD (f : Nat → Bool) (n : Nat) {c : Nat} (hc : c < 64) :
    ((List.range n).foldl (fun w c => if f c then w ||| BitVec.twoPow 64 c else w) 0).getLsbD c = (decide (c < n) && f c) := by
  induction n with
  | zero => exact BitVec.getLsbD_zero
  | succ n ih =>
    have hbit : (BitVec.twoPow 64 n).getLsbD c = decide (n = c) := by
      rw [BitVec.getLsbD_twoPow, Bool.eq_iff_iff, Bool.and_eq_true, decide_eq_true_eq, decide_eq_true_eq]
      omega
    rw [List.range_succ, List.foldl_append, List.foldl_cons, List.foldl_nil]
    by_cases hf : f n = true
    · rw [if_pos hf, BitVec.getLsbD_or, ih, hbit]
      rcases eq_or_ne n c with rfl | hne
      · simp [hf]
      · rw [decide_eq_false hne, Bool.or_false, decide_eq_decide.mpr (show c < n ↔ c < n + 1 by omega)]
    · rw [if_neg hf, ih]
      rcases eq_or_ne n c with rfl | hne
      · simp [hf]
      · rw [decide_eq_decide.mpr (show c < n ↔ c < n + 1 by omega)]

/-! ### The bits that a comparison writes -/

/-- The second operand of a comparison: an element of VB, or for `vcmps` the scalar of R117. -/
def cmpOperand (op : VOp) (t : Et) (b : Elem) (gs : Word) : Elem := if op = .vcmp then b else scalarOf t gs

theorem etBits_cmpOperand {op : VOp} (hcmp : op = .vcmp ∨ op = .vcmps) (t : Et) (b : Elem) (gs : Word) :
    etBits t (cmpOperand op t b gs) = if op = .vcmps then gs.toNat % 2 ^ etWidth t else b.toNat % 2 ^ etWidth t := by
  obtain rfl | rfl := hcmp
  · rfl
  · exact etBits_scalarOf t gs

/-- The condition at element (r, c). -/
def cmpLane (op : VOp) (m : Mod) (rd : Reads) (r c : Nat) : Bool × Fl :=
  laneCmp m.et m.cond (rd.va.at r c) (cmpOperand op m.et (rd.vb.at r c) rd.gs)

/-- The conditions where the mask governs, zeros elsewhere. -/
def cmpMask (op : VOp) (m : Mod) (gov : MReg) (rd : Reads) : MReg :=
  Vector.ofFn fun r => (List.range 64).foldl (fun w c => if gov.at r c && (cmpLane op m rd r c).1 then w ||| BitVec.twoPow 64 c else w) 0

theorem cmpMask_at (op : VOp) (m : Mod) (gov : MReg) (rd : Reads) (j : Fin 1024) : (cmpMask op m gov rd).at (j.val / 64) (j.val % 64) =
    (gov.at (j.val / 64) (j.val % 64) && (cmpLane op m rd (j.val / 64) (j.val % 64)).1) := by
  have hc : j.val % 64 < 64 := Nat.mod_lt _ (by decide)
  rw [MReg.at_index, cmpMask, Vector.getElem_ofFn, foldl_setBits_getLsbD _ _ hc, decide_eq_true hc, Bool.true_and]

/-- A bit of a mask after a write. -/
theorem Vu.writeK_at {u : Vu} {i : BitVec 3} (hi : i ≠ 0) {n : Nat} (h : (u.kwin[i.toNat]'i.isLt).quiet n) (l free : Nat)
    (wrote nv : MReg) (j : Fin 1024) : MReg.at ((u.writeK i n l free wrote nv).k[i.toNat]'i.isLt) (j.val / 64) (j.val % 64) =
      if wrote.at (j.val / 64) (j.val % 64) then nv.at (j.val / 64) (j.val % 64)
      else MReg.at (u.k[i.toNat]'i.isLt) (j.val / 64) (j.val % 64) := by
  have hc : j.val % 64 < 64 := Nat.mod_lt _ (by decide)
  have hrow := Vu.writeK_self hi h l free wrote nv ⟨j.val / 64, by omega⟩
  simp only [Fin.getElem_fin] at hrow
  simp only [MReg.at_index, hrow, BitVec.getLsbD_or, BitVec.getLsbD_and, BitVec.getLsbD_not, decide_eq_true hc, Bool.true_and]
  cases (wrote[j.val / 64]'(by omega)).getLsbD (j.val % 64) <;> simp

/-- A write of every bit leaves what is written. -/
theorem Vu.writeK_allMask {u : Vu} {i : BitVec 3} (hi : i ≠ 0) {n : Nat} (h : (u.kwin[i.toNat]'i.isLt).quiet n) (l free : Nat)
    (nv : MReg) (r : Fin 16) : ((u.writeK i n l free allMask nv).k[i.toNat]'i.isLt)[r] = nv[r] := by
  have hall : allMask[r] = BitVec.allOnes 64 := Vector.getElem_replicate r.isLt
  rw [Vu.writeK_self hi h, hall, BitVec.not_allOnes, BitVec.and_zero, BitVec.zero_or, BitVec.and_allOnes]

theorem VReg.at_eq_getElem (v : VReg) {r c i : Nat} (hi : i < 1024) (h : 64 * (r % 16) + c % 64 = i) : v.at r c = v[i] := by
  subst h
  rfl

/-! ### Whole masks -/

/-- R124: the six operations by their number. -/
theorem kopBits_eq (c : Nat) (a b : BitVec 64) : kopBits c a b = if c = 0 then a &&& b else if c = 1 then a ||| b
    else if c = 2 then a ^^^ b else if c = 3 then a &&& ~~~b else if c = 4 then ~~~a else a := by
  match c with
  | 0 | 1 | 2 | 3 | 4 => rfl
  | n + 5 => rfl

/-- A mask as the statement reads it: k0 is all ones. -/
theorem Vu.mask_getElem (u : Vu) (k : BitVec 3) (r : Fin 16) :
    (u.mask k)[r] = if k = 0 then BitVec.allOnes 64 else (u.k[k.toNat]'k.isLt)[r] := by
  rw [Fin.getElem_fin, ← MReg.row_of_lt _ r.isLt, Vu.mask_row _ _ r.isLt]
  rfl

/-! ### The issue of the words -/

theorem Ctx.issue_cmp {x : Ctx} {e : VEntry} {op : VOp} (hop : op = .vcmp ∨ op = .vcmps) (hd : e.dropped = false) {n free : Nat}
    {rd : Reads} {k : MReg} (hk : x.vu.readK (modOf op e.gt).k n free = k) (hgs : rd.gs = e.gs)
    (ha : x.vu.readV e.f.a n (free + 1024) = rd.va) (hb : x.vu.readV e.f.b n (free + 2048) = rd.vb) :
    let m := modOf op e.gt
    let gov := govern k m.kn
    x.issue e op n free = { x.warned m with
      vu := x.vu.writeK (e.f.d.setWidth 3) n 2 (free + 6144) (if m.kz then allMask else gov) (cmpMask op m gov rd)
      vufl := (x.warned m).vufl ||| flagsOf gov fun r c => (cmpLane op m rd r c).2 } := by
  subst hk
  unfold cmpMask cmpLane cmpOperand
  rw [← ha, ← hb, hgs]
  obtain ⟨num, op', f, gs, gt, load, store, dropped, tag⟩ := e
  obtain rfl : dropped = false := hd
  obtain rfl | rfl := hop <;> rfl

theorem Ctx.issue_kop {x : Ctx} {e : VEntry} (hd : e.dropped = false) {n free : Nat} {rd : Reads}
    (ha : x.vu.readK (e.f.a.setWidth 3) n (free + 4096) = rd.ka) (hb : x.vu.readK (e.f.b.setWidth 3) n (free + 5120) = rd.kb) :
    let m := modOf .kop e.gt
    x.issue e .kop n free = { x.warned m with
      vu := x.vu.writeK (e.f.d.setWidth 3) n 2 (free + 6144) allMask (Vector.ofFn fun r => kopBits m.cond rd.ka[r] rd.kb[r]) } := by
  rw [← ha, ← hb]
  obtain ⟨num, op', f, gs, gt, load, store, dropped, tag⟩ := e
  obtain rfl : dropped = false := hd
  rfl

theorem Ctx.issue_vget {x : Ctx} {e : VEntry} (hd : e.dropped = false) {n free : Nat} {va : VReg}
    (ha : x.vu.readV e.f.a n (free + 1024) = va) :
    x.issue e .vget n free = { x.warned (modOf .vget e.gt) with
      vu := { x.vu with fifo := x.vu.fifo ++ [va.at (wbits e.gs 11 8) (wbits e.gs 5 0)] } } := by
  rw [← ha]
  obtain ⟨num, op', f, gs, gt, load, store, dropped, tag⟩ := e
  obtain rfl : dropped = false := hd
  rfl

section
variable {s : State} {p : Nat} {e : VEntry} {rest : List VEntry} {op : VOp}

/-- R121: what a comparison leaves where no window runs. -/
theorem vuIssue_ctx_cmp (h : vuReady s p e rest ((s.core p).ctx.vu.slot + 1 + e.f.p.toNat)) (hop : e.op = some op)
    (hcmp : op = .vcmp ∨ op = .vcmps) :
    let x := (s.core p).ctx
    let n := x.vu.slot + 1 + e.f.p.toNat
    let m := modOf op e.gt
    let gov := govern (x.vu.mask m.k) m.kn
    ((s.vuIssue p 0).core p).ctx = { (x.atSlot rest n).warned m with
      vu := (x.atSlot rest n).vu.writeK (e.f.d.setWidth 3) n 2 (s.free + 6144) (if m.kz then allMask else gov)
        (cmpMask op m gov (x.reads e))
      vufl := ((x.atSlot rest n).warned m).vufl ||| flagsOf gov fun r c => (cmpLane op m (x.reads e) r c).2 } := by
  have hd : e.dropped = false := not_dropped_of_ready h
  have hi : (s.core p).ctx.issuable e = true := by
    rw [Ctx.issuable, hop]
    obtain rfl | rfl := hcmp <;> rfl
  rw [vuIssue_of_ready h hop hi rfl]
  exact Ctx.issue_cmp hcmp hd (readK_of_ready h _ _) rfl (readV_of_ready h _ _) (readV_of_ready h _ _)

theorem vuIssue_vufl_cmp (h : vuReady s p e rest ((s.core p).ctx.vu.slot + 1 + e.f.p.toNat)) (hop : e.op = some op)
    (hcmp : op = .vcmp ∨ op = .vcmps) :
    let x := (s.core p).ctx
    let m := modOf op e.gt
    ((s.vuIssue p 0).core p).ctx.vufl =
      x.vufl ||| flagsOf (govern (x.vu.mask m.k) m.kn) fun r c => (cmpLane op m (x.reads e) r c).2 := by
  rw [vuIssue_ctx_cmp h hop hcmp]
  dsimp only
  rw [Ctx.warned_vufl]
  rfl

/-- R115, R121: a bit of the destination after a comparison. -/
theorem vuIssue_bit_cmp (h : vuReady s p e rest ((s.core p).ctx.vu.slot + 1 + e.f.p.toNat)) (hop : e.op = some op)
    (hcmp : op = .vcmp ∨ op = .vcmps) (hkd : (e.f.d.setWidth 3 : BitVec 3) ≠ 0) (j : Fin 1024) :
    let x := (s.core p).ctx
    let m := modOf op e.gt
    let kd : BitVec 3 := e.f.d.setWidth 3
    MReg.at (((s.vuIssue p 0).core p).ctx.vu.k[kd.toNat]'kd.isLt) (j.val / 64) (j.val % 64) =
      if governs x m.k m.kn j then (cmpLane op m (x.reads e) (j.val / 64) (j.val % 64)).1
      else !m.kz && MReg.at (x.vu.k[kd.toNat]'kd.isLt) (j.val / 64) (j.val % 64) := by
  intro x m kd
  rw [vuIssue_ctx_cmp h hop hcmp]
  dsimp only
  rw [Vu.writeK_at hkd (quietK_of_ready h _), cmpMask_at, governs_eq]
  change (if (if m.kz then allMask else govern (x.vu.mask m.k) m.kn).at (j.val / 64) (j.val % 64) = true then
    governs x m.k m.kn j && _ else MReg.at (x.vu.k[kd.toNat]'kd.isLt) _ _) = _
  by_cases hz : m.kz = true
  · rw [if_pos hz, allMask_at _ (Nat.mod_lt _ (by decide)), hz]
    cases governs x m.k m.kn j <;> rfl
  · rw [if_neg hz, governs_eq, Bool.not_eq_true] at *
    rw [hz]
    cases governs x m.k m.kn j <;> rfl

/-- NV stands after a comparison one of whose governed elements raises it. -/
theorem vuIssue_invalid_cmp (h : vuReady s p e rest ((s.core p).ctx.vu.slot + 1 + e.f.p.toNat)) (hop : e.op = some op)
    (hcmp : op = .vcmp ∨ op = .vcmps) (j : Fin 1024) (hg : governs (s.core p).ctx (modOf op e.gt).k (modOf op e.gt).kn j = true)
    (hv : (cmpLane op (modOf op e.gt) ((s.core p).ctx.reads e) (j.val / 64) (j.val % 64)).2 = flNV) :
    ((s.vuIssue p 0).core p).ctx.vufl[0] = true := by
  rw [vuIssue_vufl_cmp h hop hcmp, BitVec.getElem_or, Bool.or_eq_true]
  refine .inr ((flagsOf_getLsbD _ _ 0).mpr ⟨j, (governs_eq _ _ _ _).trans hg, ?_⟩)
  rw [hv]
  rfl

/-- R124: what `kop` leaves where no window runs, whatever the governing mask. -/
theorem vuIssue_ctx_kop (h : vuReady s p e rest ((s.core p).ctx.vu.slot + 1 + e.f.p.toNat)) (hop : e.op = some .kop) :
    let x := (s.core p).ctx
    let n := x.vu.slot + 1 + e.f.p.toNat
    let m := modOf .kop e.gt
    ((s.vuIssue p 0).core p).ctx = { (x.atSlot rest n).warned m with
      vu := (x.atSlot rest n).vu.writeK (e.f.d.setWidth 3) n 2 (s.free + 6144) allMask
        (Vector.ofFn fun r => kopBits m.cond (x.reads e).ka[r] (x.reads e).kb[r]) } := by
  have hd : e.dropped = false := not_dropped_of_ready h
  have hi : (s.core p).ctx.issuable e = true := by rw [Ctx.issuable, hop]
  rw [vuIssue_of_ready h hop hi rfl]
  exact Ctx.issue_kop hd (readK_of_ready h _ _) (readK_of_ready h _ _)

theorem vuIssue_row_kop (h : vuReady s p e rest ((s.core p).ctx.vu.slot + 1 + e.f.p.toNat)) (hop : e.op = some .kop)
    (hkd : (e.f.d.setWidth 3 : BitVec 3) ≠ 0) (r : Fin 16) :
    let x := (s.core p).ctx
    let kd : BitVec 3 := e.f.d.setWidth 3
    (((s.vuIssue p 0).core p).ctx.vu.k[kd.toNat]'kd.isLt)[r] =
      kopBits (modOf .kop e.gt).cond (x.vu.mask (e.f.a.setWidth 3))[r] (x.vu.mask (e.f.b.setWidth 3))[r] := by
  rw [vuIssue_ctx_kop h hop]
  exact (Vu.writeK_allMask hkd (quietK_of_ready h _) _ _ _ r).trans (Vector.getElem_ofFn r.isLt)

/-- R126: what `vget` leaves while the result FIFO has room. -/
theorem vuIssue_ctx_vget (h : vuReady s p e rest ((s.core p).ctx.vu.slot + 1 + e.f.p.toNat)) (hop : e.op = some .vget)
    (hfifo : (s.core p).ctx.vu.fifo.length < 16) :
    let x := (s.core p).ctx
    let u := (x.atSlot rest (x.vu.slot + 1 + e.f.p.toNat)).vu
    ((s.vuIssue p 0).core p).ctx.vu = { u with fifo := x.vu.fifo ++ [(x.reads e).va.at (wbits e.gs 11 8) (wbits e.gs 5 0)] } := by
  have hd : e.dropped = false := not_dropped_of_ready h
  have hi : (s.core p).ctx.issuable e = true := by
    rw [Ctx.issuable, hop]
    exact decide_eq_true hfifo
  rw [vuIssue_of_ready h hop hi rfl]
  exact congrArg Ctx.vu (Ctx.issue_vget hd (readV_of_ready h _ _))

end

/-- Settles O35: the contexts that `vuIssue_ctx_cmp`, `vuIssue_ctx_kop` and `vuIssue_ctx_vget` give, with `laneCmp_int` and
`laneCmp_float` for the conditions and `laneCmp_invalid` for NV. -/
theorem vuMasks : Obligations.VuMasks := by
  unfold Obligations.VuMasks
  intro s p e rest op hop x n m y w kd mask h
  have hmask (z : Ctx) (k : BitVec 3) (r : Fin 16) : mask z k r = (z.vu.mask k)[r] := (z.vu.mask_getElem k r).symm
  refine ⟨fun hcmp hkd => ?_, fun ho r => ?_, fun ho hfifo hidx => ?_⟩
  · have hctx : y = _ := vuIssue_ctx_cmp h hop hcmp
    have hvufl : y.vufl = _ := vuIssue_vufl_cmp h hop hcmp
    have het : m.et ∈ [0, 1, 2, 3, 4, 5, 6, 7, 8] := by
      obtain rfl | rfl := hcmp <;> exact modOf_et_mem rfl (by decide) _
    have h8 : m.et ≤ 8 := (by decide : ∀ t ∈ [0, 1, 2, 3, 4, 5, 6, 7, 8], t ≤ 8) _ het
    refine ⟨h8, modOf_cond_le op _, ?_, ?_, fun h3 => ?_, fun i hi => ?_, fun j => ?_⟩
    · rw [hctx]
      exact Vu.writeK_v _ _ _ _ _ _ _
    · rw [hctx]
      exact Vu.writeK_due hkd (quietK_of_ready h _) _ _ _ _
    · have hnone (r c : Nat) : (cmpLane op m (x.reads e) r c).2 = 0 := congrArg Prod.snd (laneCmp_int (etInt_of_le h3 h8) _ _ _)
      rw [hvufl, flagsOf_eq_zero _ hnone]
      exact BitVec.or_zero
    · rw [hvufl]
      exact Fl.or_getElem_of_left hi _
    · intro a b num
      split
      next pr ew hieee =>
      intro bit old
      let A := (x.vu.v[e.f.a.toNat]'e.f.a.isLt)[j]
      let B := cmpOperand op m.et (x.vu.v[e.f.b.toNat]'e.f.b.isLt)[j] e.gs
      have hA : etBits m.et A = a := rfl
      have hB : etBits m.et B = b := etBits_cmpOperand hcmp _ _ _
      have hnum (z : Elem) : etVal m.et z = num (etBits m.et z) := etVal_eq m.et z
      have hlane : cmpLane op m (x.reads e) (j.val / 64) (j.val % 64) = laneCmp m.et m.cond A B := by
        rw [cmpLane, VReg.at_index, VReg.at_index]
        rfl
      have hbit : bit = if governs x m.k m.kn j then (laneCmp m.et m.cond A B).1 else !m.kz && old := by
        have hat := vuIssue_bit_cmp h hop hcmp hkd j
        dsimp only at hat
        rw [MReg.at_index, MReg.at_index, hlane] at hat
        exact hat
      refine ⟨fun hg => by rw [hbit, hg]; rfl, fun hg => ?_⟩
      rw [hbit, if_pos hg]
      refine ⟨fun h3 => ?_, fun h2 => ?_⟩
      · rw [laneCmp_int (etInt_of_le h3 h8), hnum, hnum, hA, hB]
      · obtain ⟨rfl, rfl⟩ : (etFmt m.et).p = pr ∧ (etFmt m.et).ew = ew :=
          Prod.mk.inj ((ieeeOf_eq h2).2.1.symm.trans hieee)
        refine ⟨?_, fun hv => ?_⟩
        · rw [laneCmp_float h2 (modOf_cond_le op _), hA, hB]
        · have hfl : (laneCmp m.et m.cond A B).2 = flNV := laneCmp_invalid h2 A B (by rwa [hA, hB])
          exact vuIssue_invalid_cmp h hop hcmp j hg ((congrArg Prod.snd hlane).trans hfl)
  · subst ho
    intro a b
    have hctx : y = _ := vuIssue_ctx_kop h hop
    have ha : a = (x.vu.mask (e.f.a.setWidth 3))[r] := hmask x _ r
    have hb : b = (x.vu.mask (e.f.b.setWidth 3))[r] := hmask x _ r
    refine ⟨?_, fun hkd => ?_, ?_⟩
    · rw [hctx]
      exact Vu.writeK_v _ _ _ _ _ _ _
    · rw [hctx]
      exact Vu.writeK_due hkd (quietK_of_ready h _) _ _ _ _
    · by_cases hkd : kd = 0
      · rw [if_pos hkd]
        exact if_pos hkd
      · rw [if_neg hkd, ← kopBits_eq, ha, hb]
        exact (if_neg hkd).trans (vuIssue_row_kop h hop hkd r)
  · subst ho
    have hvu : y.vu = _ := vuIssue_ctx_vget h hop hfifo
    rw [hvu]
    refine ⟨rfl, rfl, congrArg (fun z => x.vu.fifo ++ [z]) (VReg.at_eq_getElem _ hidx ?_)⟩
    simp only [wbits, bits, Nat.shiftRight_eq_div_pow]
    omega

end Sys2Proof.Machine
end
